-- ==== Sys2Proof/Word.lean ====
section
/-! DEFINITION. The three widths of the machine (00_scope.md R5, R7): a byte, an address, a register number. -/

namespace Sys2Proof

/-- A `u8`: a register's or a memory cell's contents, an opcode, an operand byte (R7). -/
abbrev Byte := BitVec 8

/-- A `u16`: an address or the program counter (R7, R60). -/
abbrev Addr := BitVec 16

/-- A `u4`: a register number, whose arithmetic wraps modulo 16 (R21). -/
abbrev RegIdx := BitVec 4

end Sys2Proof
end

