-- ==== Sys2Proof/Machine/Bits.lean ====
section
/-! DEFINITION. Bit fields, byte joining and extension (00_scope.md R8, R10), used by the decoder and the machine. -/

namespace Sys2Proof.Machine

/-- `v[15:8]` (R8). -/
def hiByte (a : Addr) : Byte := a.extractLsb' 8 8

/-- `v[7:0]` (R8). -/
def loByte (a : Addr) : Byte := a.extractLsb' 0 8

/-- `a ++ b` of two bytes: `a` is the high byte (R8, R62). -/
def joinBytes (h l : Byte) : Addr := h ++ l

/-- `arg[7:4]` (30_encoding.md R92). -/
def hiNibble (b : Byte) : RegIdx := b.extractLsb' 4 4

/-- `arg[3:0]` (30_encoding.md R92). -/
def loNibble (b : Byte) : RegIdx := b.extractLsb' 0 4

/-- Two nibbles as one byte: `(x << 4) | y` (30_encoding.md R92). -/
def joinNibbles (x y : RegIdx) : Byte := x ++ y

/-- `zext_16(v)` (R10). -/
def zext16 (v : Byte) : Addr := v.setWidth 16

/-- `sext_16(v)`: `v` below 128, else `v + 0xFF00` (R10). -/
def sext16 (v : Byte) : Addr := v.signExtend 16

/-- `nx(r)`: the register after `r`, with `nx(15) = 0` (10_state.md R21). -/
def nx (r : RegIdx) : RegIdx := r + 1

end Sys2Proof.Machine
end

