-- ==== Sys2Proof/Syntax.lean ====
section
/-! DEFINITION. The instructions: one constructor per row of spec/opcode_table.json (30_encoding.md R95, R103). -/

namespace Sys2Proof

/-- The six operand shapes of 30_encoding.md R93. -/
inductive Shape where
  | none | ldi | rr | r | zp | rel
  deriving DecidableEq, Repr

/-- The 54 instructions of 30_encoding.md R95, each with the operand fields its shape gives it (R93, R94).
Every value of every field is legal (R101), so each term is a well-formed instruction. -/
inductive Instr where
  /-- `NOP`, opcode 0x00, no operand (R120). -/
  | nop
  /-- `LDI0`, opcode 0x10, immediate (R121). -/
  | ldi0 (imm : Byte)
  /-- `LDI1`, opcode 0x11, immediate (R121). -/
  | ldi1 (imm : Byte)
  /-- `LDI2`, opcode 0x12, immediate (R121). -/
  | ldi2 (imm : Byte)
  /-- `LDI3`, opcode 0x13, immediate (R121). -/
  | ldi3 (imm : Byte)
  /-- `LDI4`, opcode 0x14, immediate (R121). -/
  | ldi4 (imm : Byte)
  /-- `LDI5`, opcode 0x15, immediate (R121). -/
  | ldi5 (imm : Byte)
  /-- `LDI6`, opcode 0x16, immediate (R121). -/
  | ldi6 (imm : Byte)
  /-- `LDI7`, opcode 0x17, immediate (R121). -/
  | ldi7 (imm : Byte)
  /-- `LDI8`, opcode 0x18, immediate (R121). -/
  | ldi8 (imm : Byte)
  /-- `LDI9`, opcode 0x19, immediate (R121). -/
  | ldi9 (imm : Byte)
  /-- `LDI10`, opcode 0x1A, immediate (R121). -/
  | ldi10 (imm : Byte)
  /-- `LDI11`, opcode 0x1B, immediate (R121). -/
  | ldi11 (imm : Byte)
  /-- `LDI12`, opcode 0x1C, immediate (R121). -/
  | ldi12 (imm : Byte)
  /-- `LDI13`, opcode 0x1D, immediate (R121). -/
  | ldi13 (imm : Byte)
  /-- `LDI14`, opcode 0x1E, immediate (R121). -/
  | ldi14 (imm : Byte)
  /-- `LDI15`, opcode 0x1F, immediate (R121). -/
  | ldi15 (imm : Byte)
  /-- `MOV`, opcode 0x20, two registers (R122). -/
  | mov (rx ry : RegIdx)
  /-- `SWAP`, opcode 0x21, two registers (R123). -/
  | swap (rx ry : RegIdx)
  /-- `LOAD`, opcode 0x22, two registers (R124). -/
  | load (rx ry : RegIdx)
  /-- `STOR`, opcode 0x23, two registers (R125). -/
  | stor (rx ry : RegIdx)
  /-- `LOADZ`, opcode 0x24, zero-page address (R126). -/
  | loadz (imm : Byte)
  /-- `STORZ`, opcode 0x25, zero-page address (R127). -/
  | storz (imm : Byte)
  /-- `ADD`, opcode 0x30, two registers (R140). -/
  | add (rx ry : RegIdx)
  /-- `ADC`, opcode 0x31, two registers (R141). -/
  | adc (rx ry : RegIdx)
  /-- `SUB`, opcode 0x32, two registers (R142). -/
  | sub (rx ry : RegIdx)
  /-- `SBC`, opcode 0x33, two registers (R143). -/
  | sbc (rx ry : RegIdx)
  /-- `INC`, opcode 0x34, one register (R144). -/
  | inc (rx : RegIdx)
  /-- `DEC`, opcode 0x35, one register (R145). -/
  | dec (rx : RegIdx)
  /-- `CMP`, opcode 0x36, two registers (R146). -/
  | cmp (rx ry : RegIdx)
  /-- `MUL`, opcode 0x37, two registers (R147). -/
  | mul (rx ry : RegIdx)
  /-- `DIV`, opcode 0x38, two registers (R148). -/
  | div (rx ry : RegIdx)
  /-- `AND`, opcode 0x40, two registers (R160). -/
  | and (rx ry : RegIdx)
  /-- `OR`, opcode 0x41, two registers (R161). -/
  | or (rx ry : RegIdx)
  /-- `XOR`, opcode 0x42, two registers (R162). -/
  | xor (rx ry : RegIdx)
  /-- `NOT`, opcode 0x43, one register (R163). -/
  | not (rx : RegIdx)
  /-- `SHL`, opcode 0x44, one register (R164). -/
  | shl (rx : RegIdx)
  /-- `SHR`, opcode 0x45, one register (R165). -/
  | shr (rx : RegIdx)
  /-- `TEST`, opcode 0x46, two registers (R166). -/
  | test (rx ry : RegIdx)
  /-- `JMP`, opcode 0x50, signed byte offset (R181). -/
  | jmp (imm : Byte)
  /-- `JMPL`, opcode 0x51, two registers (R182). -/
  | jmpl (rx ry : RegIdx)
  /-- `JZ`, opcode 0x52, signed byte offset (R183). -/
  | jz (imm : Byte)
  /-- `JNZ`, opcode 0x53, signed byte offset (R184). -/
  | jnz (imm : Byte)
  /-- `JC`, opcode 0x54, signed byte offset (R185). -/
  | jc (imm : Byte)
  /-- `JNC`, opcode 0x55, signed byte offset (R186). -/
  | jnc (imm : Byte)
  /-- `JN`, opcode 0x56, signed byte offset (R187). -/
  | jn (imm : Byte)
  /-- `CALL`, opcode 0x57, signed byte offset (R188). -/
  | call (imm : Byte)
  /-- `CALLL`, opcode 0x58, two registers (R189). -/
  | calll (rx ry : RegIdx)
  /-- `RET`, opcode 0x59, no operand (R190). -/
  | ret
  /-- `PUSH`, opcode 0x60, two registers (R200). -/
  | push (rx ry : RegIdx)
  /-- `POP`, opcode 0x61, two registers (R201). -/
  | pop (rx ry : RegIdx)
  /-- `PRINT`, opcode 0x70, one register (R210). -/
  | print (rx : RegIdx)
  /-- `INPUT`, opcode 0x71, one register (R211). -/
  | input (rx : RegIdx)
  /-- `HLT`, opcode 0xFF, no operand (R212). -/
  | hlt
  deriving DecidableEq, Repr

/-- The operand shape of an instruction (30_encoding.md R93, R95). -/
def Instr.shape : Instr → Shape
  | .nop => .none
  | .ldi0 _ => .ldi
  | .ldi1 _ => .ldi
  | .ldi2 _ => .ldi
  | .ldi3 _ => .ldi
  | .ldi4 _ => .ldi
  | .ldi5 _ => .ldi
  | .ldi6 _ => .ldi
  | .ldi7 _ => .ldi
  | .ldi8 _ => .ldi
  | .ldi9 _ => .ldi
  | .ldi10 _ => .ldi
  | .ldi11 _ => .ldi
  | .ldi12 _ => .ldi
  | .ldi13 _ => .ldi
  | .ldi14 _ => .ldi
  | .ldi15 _ => .ldi
  | .mov _ _ => .rr
  | .swap _ _ => .rr
  | .load _ _ => .rr
  | .stor _ _ => .rr
  | .loadz _ => .zp
  | .storz _ => .zp
  | .add _ _ => .rr
  | .adc _ _ => .rr
  | .sub _ _ => .rr
  | .sbc _ _ => .rr
  | .inc _ => .r
  | .dec _ => .r
  | .cmp _ _ => .rr
  | .mul _ _ => .rr
  | .div _ _ => .rr
  | .and _ _ => .rr
  | .or _ _ => .rr
  | .xor _ _ => .rr
  | .not _ => .r
  | .shl _ => .r
  | .shr _ => .r
  | .test _ _ => .rr
  | .jmp _ => .rel
  | .jmpl _ _ => .rr
  | .jz _ => .rel
  | .jnz _ => .rel
  | .jc _ => .rel
  | .jnc _ => .rel
  | .jn _ => .rel
  | .call _ => .rel
  | .calll _ _ => .rr
  | .ret => .none
  | .push _ _ => .rr
  | .pop _ _ => .rr
  | .print _ => .r
  | .input _ => .r
  | .hlt => .none

end Sys2Proof
end

