-- ==== Sys2Proof/WellFormed.lean ====
section
/-! DEFINITION. The well-formedness checks: opcodes that are instructions (30_encoding.md R95, R99), words whose unused
operand bits are zero (R98), and program images that fit the memory (70_reset_and_hazards.md R257). A term of `Instr`
needs no check: every value of every operand field is legal (R101) and the field types hold no other value. -/

namespace Sys2Proof

open Sys2Proof.Machine (hiByte loByte loNibble)

/-- The shape an opcode byte has (R93, R95), `none` for the 202 invalid ones (R99). -/
def shapeOfOpcode (op : Byte) : Option Shape :=
  let n := op.toNat
  if n = 0x00 ∨ n = 0x59 ∨ n = 0xFF then some .none
  else if 0x10 ≤ n ∧ n ≤ 0x1F then some .ldi
  else if n = 0x24 ∨ n = 0x25 then some .zp
  else if n = 0x34 ∨ n = 0x35 ∨ (0x43 ≤ n ∧ n ≤ 0x45) ∨ n = 0x70 ∨ n = 0x71 then some .r
  else if n = 0x50 ∨ (0x52 ≤ n ∧ n ≤ 0x57) then some .rel
  else if (0x20 ≤ n ∧ n ≤ 0x23) ∨ (0x30 ≤ n ∧ n ≤ 0x33) ∨ (0x36 ≤ n ∧ n ≤ 0x38) ∨ (0x40 ≤ n ∧ n ≤ 0x42) ∨ n = 0x46 ∨
      n = 0x51 ∨ n = 0x58 ∨ n = 0x60 ∨ n = 0x61 then some .rr
  else none

/-- Is the byte one of the 54 opcodes (R95, R99)? -/
def validOpcode (op : Byte) : Bool := (shapeOfOpcode op).isSome

/-- Are the operand bits that the opcode's shape does not use zero (R93, R98)? The machine ignores them; the encoder
writes them zero. An invalid opcode has no such word. -/
def canonicalWord (iw : BitVec 16) : Bool :=
  match shapeOfOpcode (hiByte iw) with
  | .none => false
  | .some .none => loByte iw == 0#8
  | .some .r => loNibble (loByte iw) == 0#4
  | .some .ldi | .some .rr | .some .zp | .some .rel => true

/-- Does an image of `len` bytes loaded at `start` fit: `S + L ≤ 65536` (R257)? -/
def imageFits (start len : Nat) : Bool := start + len ≤ 65536

end Sys2Proof
end

