-- ==== Sys2Proof/Decode.lean ====
section
/-! DEFINITION. The decoder, total on any two bytes (30_encoding.md R92, R95, R99, R100), the encoder, and the opcode table (R103). -/

namespace Sys2Proof

open Sys2Proof.Machine (hiByte loByte joinBytes hiNibble loNibble joinNibbles)

/-- The decoder's 55 outcomes (R100): one of the 54 instructions, or an invalid opcode rejected by name (R99). -/
inductive Decoded where
  | instr (i : Instr)
  | invalidOpcode (op : Byte)
  deriving DecidableEq, Repr

/-- The instruction of a decoding, where there is one. -/
def Decoded.toOption : Decoded → Option Instr
  | .instr i => some i
  | .invalidOpcode _ => none

/-- The decoder: only `op` selects (R95); the operand byte gives `rx`, `ry` or `imm` by the shape (R92, R93);
unused operand bits are ignored (R98). -/
def decode (op arg : Byte) : Decoded :=
  let rx := hiNibble arg
  let ry := loNibble arg
  let imm := arg
  match op with
  | 0x00#8 => .instr .nop
  | 0x10#8 => .instr (.ldi0 imm)
  | 0x11#8 => .instr (.ldi1 imm)
  | 0x12#8 => .instr (.ldi2 imm)
  | 0x13#8 => .instr (.ldi3 imm)
  | 0x14#8 => .instr (.ldi4 imm)
  | 0x15#8 => .instr (.ldi5 imm)
  | 0x16#8 => .instr (.ldi6 imm)
  | 0x17#8 => .instr (.ldi7 imm)
  | 0x18#8 => .instr (.ldi8 imm)
  | 0x19#8 => .instr (.ldi9 imm)
  | 0x1A#8 => .instr (.ldi10 imm)
  | 0x1B#8 => .instr (.ldi11 imm)
  | 0x1C#8 => .instr (.ldi12 imm)
  | 0x1D#8 => .instr (.ldi13 imm)
  | 0x1E#8 => .instr (.ldi14 imm)
  | 0x1F#8 => .instr (.ldi15 imm)
  | 0x20#8 => .instr (.mov rx ry)
  | 0x21#8 => .instr (.swap rx ry)
  | 0x22#8 => .instr (.load rx ry)
  | 0x23#8 => .instr (.stor rx ry)
  | 0x24#8 => .instr (.loadz imm)
  | 0x25#8 => .instr (.storz imm)
  | 0x30#8 => .instr (.add rx ry)
  | 0x31#8 => .instr (.adc rx ry)
  | 0x32#8 => .instr (.sub rx ry)
  | 0x33#8 => .instr (.sbc rx ry)
  | 0x34#8 => .instr (.inc rx)
  | 0x35#8 => .instr (.dec rx)
  | 0x36#8 => .instr (.cmp rx ry)
  | 0x37#8 => .instr (.mul rx ry)
  | 0x38#8 => .instr (.div rx ry)
  | 0x40#8 => .instr (.and rx ry)
  | 0x41#8 => .instr (.or rx ry)
  | 0x42#8 => .instr (.xor rx ry)
  | 0x43#8 => .instr (.not rx)
  | 0x44#8 => .instr (.shl rx)
  | 0x45#8 => .instr (.shr rx)
  | 0x46#8 => .instr (.test rx ry)
  | 0x50#8 => .instr (.jmp imm)
  | 0x51#8 => .instr (.jmpl rx ry)
  | 0x52#8 => .instr (.jz imm)
  | 0x53#8 => .instr (.jnz imm)
  | 0x54#8 => .instr (.jc imm)
  | 0x55#8 => .instr (.jnc imm)
  | 0x56#8 => .instr (.jn imm)
  | 0x57#8 => .instr (.call imm)
  | 0x58#8 => .instr (.calll rx ry)
  | 0x59#8 => .instr .ret
  | 0x60#8 => .instr (.push rx ry)
  | 0x61#8 => .instr (.pop rx ry)
  | 0x70#8 => .instr (.print rx)
  | 0x71#8 => .instr (.input rx)
  | 0xFF#8 => .instr .hlt
  | _ => .invalidOpcode op

/-- The decoder on the instruction word `IW = op ++ arg` (R91). -/
def decodeWord (iw : BitVec 16) : Decoded := decode (hiByte iw) (loByte iw)

/-- The opcode byte of an instruction (R95). -/
def opcodeOf : Instr → Byte
  | .nop => 0x00#8
  | .ldi0 _ => 0x10#8
  | .ldi1 _ => 0x11#8
  | .ldi2 _ => 0x12#8
  | .ldi3 _ => 0x13#8
  | .ldi4 _ => 0x14#8
  | .ldi5 _ => 0x15#8
  | .ldi6 _ => 0x16#8
  | .ldi7 _ => 0x17#8
  | .ldi8 _ => 0x18#8
  | .ldi9 _ => 0x19#8
  | .ldi10 _ => 0x1A#8
  | .ldi11 _ => 0x1B#8
  | .ldi12 _ => 0x1C#8
  | .ldi13 _ => 0x1D#8
  | .ldi14 _ => 0x1E#8
  | .ldi15 _ => 0x1F#8
  | .mov _ _ => 0x20#8
  | .swap _ _ => 0x21#8
  | .load _ _ => 0x22#8
  | .stor _ _ => 0x23#8
  | .loadz _ => 0x24#8
  | .storz _ => 0x25#8
  | .add _ _ => 0x30#8
  | .adc _ _ => 0x31#8
  | .sub _ _ => 0x32#8
  | .sbc _ _ => 0x33#8
  | .inc _ => 0x34#8
  | .dec _ => 0x35#8
  | .cmp _ _ => 0x36#8
  | .mul _ _ => 0x37#8
  | .div _ _ => 0x38#8
  | .and _ _ => 0x40#8
  | .or _ _ => 0x41#8
  | .xor _ _ => 0x42#8
  | .not _ => 0x43#8
  | .shl _ => 0x44#8
  | .shr _ => 0x45#8
  | .test _ _ => 0x46#8
  | .jmp _ => 0x50#8
  | .jmpl _ _ => 0x51#8
  | .jz _ => 0x52#8
  | .jnz _ => 0x53#8
  | .jc _ => 0x54#8
  | .jnc _ => 0x55#8
  | .jn _ => 0x56#8
  | .call _ => 0x57#8
  | .calll _ _ => 0x58#8
  | .ret => 0x59#8
  | .push _ _ => 0x60#8
  | .pop _ _ => 0x61#8
  | .print _ => 0x70#8
  | .input _ => 0x71#8
  | .hlt => 0xFF#8

/-- The operand byte the encoder writes: unused bits are zero (R98, log 12). -/
def operandOf : Instr → Byte
  | .nop => 0#8
  | .ldi0 imm => imm
  | .ldi1 imm => imm
  | .ldi2 imm => imm
  | .ldi3 imm => imm
  | .ldi4 imm => imm
  | .ldi5 imm => imm
  | .ldi6 imm => imm
  | .ldi7 imm => imm
  | .ldi8 imm => imm
  | .ldi9 imm => imm
  | .ldi10 imm => imm
  | .ldi11 imm => imm
  | .ldi12 imm => imm
  | .ldi13 imm => imm
  | .ldi14 imm => imm
  | .ldi15 imm => imm
  | .mov rx ry => joinNibbles rx ry
  | .swap rx ry => joinNibbles rx ry
  | .load rx ry => joinNibbles rx ry
  | .stor rx ry => joinNibbles rx ry
  | .loadz imm => imm
  | .storz imm => imm
  | .add rx ry => joinNibbles rx ry
  | .adc rx ry => joinNibbles rx ry
  | .sub rx ry => joinNibbles rx ry
  | .sbc rx ry => joinNibbles rx ry
  | .inc rx => joinNibbles rx 0#4
  | .dec rx => joinNibbles rx 0#4
  | .cmp rx ry => joinNibbles rx ry
  | .mul rx ry => joinNibbles rx ry
  | .div rx ry => joinNibbles rx ry
  | .and rx ry => joinNibbles rx ry
  | .or rx ry => joinNibbles rx ry
  | .xor rx ry => joinNibbles rx ry
  | .not rx => joinNibbles rx 0#4
  | .shl rx => joinNibbles rx 0#4
  | .shr rx => joinNibbles rx 0#4
  | .test rx ry => joinNibbles rx ry
  | .jmp imm => imm
  | .jmpl rx ry => joinNibbles rx ry
  | .jz imm => imm
  | .jnz imm => imm
  | .jc imm => imm
  | .jnc imm => imm
  | .jn imm => imm
  | .call imm => imm
  | .calll rx ry => joinNibbles rx ry
  | .ret => 0#8
  | .push rx ry => joinNibbles rx ry
  | .pop rx ry => joinNibbles rx ry
  | .print rx => joinNibbles rx 0#4
  | .input rx => joinNibbles rx 0#4
  | .hlt => 0#8

/-- The encoder: the word `IW = op ++ arg` of an instruction (R91, R100). -/
def encode (i : Instr) : BitVec 16 := joinBytes (opcodeOf i) (operandOf i)

/-- The mnemonic of an instruction, as spec/opcode_table.json spells it. -/
def mnemonicOf : Instr → String
  | .nop => "NOP"
  | .ldi0 _ => "LDI0"
  | .ldi1 _ => "LDI1"
  | .ldi2 _ => "LDI2"
  | .ldi3 _ => "LDI3"
  | .ldi4 _ => "LDI4"
  | .ldi5 _ => "LDI5"
  | .ldi6 _ => "LDI6"
  | .ldi7 _ => "LDI7"
  | .ldi8 _ => "LDI8"
  | .ldi9 _ => "LDI9"
  | .ldi10 _ => "LDI10"
  | .ldi11 _ => "LDI11"
  | .ldi12 _ => "LDI12"
  | .ldi13 _ => "LDI13"
  | .ldi14 _ => "LDI14"
  | .ldi15 _ => "LDI15"
  | .mov _ _ => "MOV"
  | .swap _ _ => "SWAP"
  | .load _ _ => "LOAD"
  | .stor _ _ => "STOR"
  | .loadz _ => "LOADZ"
  | .storz _ => "STORZ"
  | .add _ _ => "ADD"
  | .adc _ _ => "ADC"
  | .sub _ _ => "SUB"
  | .sbc _ _ => "SBC"
  | .inc _ => "INC"
  | .dec _ => "DEC"
  | .cmp _ _ => "CMP"
  | .mul _ _ => "MUL"
  | .div _ _ => "DIV"
  | .and _ _ => "AND"
  | .or _ _ => "OR"
  | .xor _ _ => "XOR"
  | .not _ => "NOT"
  | .shl _ => "SHL"
  | .shr _ => "SHR"
  | .test _ _ => "TEST"
  | .jmp _ => "JMP"
  | .jmpl _ _ => "JMPL"
  | .jz _ => "JZ"
  | .jnz _ => "JNZ"
  | .jc _ => "JC"
  | .jnc _ => "JNC"
  | .jn _ => "JN"
  | .call _ => "CALL"
  | .calll _ _ => "CALLL"
  | .ret => "RET"
  | .push _ _ => "PUSH"
  | .pop _ _ => "POP"
  | .print _ => "PRINT"
  | .input _ => "INPUT"
  | .hlt => "HLT"

/-- One row of spec/opcode_table.json: a word is the row's instruction exactly when `IW & mask = match` (R103). -/
structure OpRow where
  mnemonic : String
  pattern : BitVec 16
  mask : BitVec 16
  deriving DecidableEq, Repr

/-- Does a word match a row (R103)? -/
def OpRow.matchesWord (r : OpRow) (iw : BitVec 16) : Bool := (iw &&& r.mask) == r.pattern

/-- Rows 0x00 to 0x1F of the table (R95). -/
def rowsLoadImmediate : List OpRow :=
  [⟨"NOP", 0x0000#16, 0xFF00#16⟩,
   ⟨"LDI0", 0x1000#16, 0xFF00#16⟩,
   ⟨"LDI1", 0x1100#16, 0xFF00#16⟩,
   ⟨"LDI2", 0x1200#16, 0xFF00#16⟩,
   ⟨"LDI3", 0x1300#16, 0xFF00#16⟩,
   ⟨"LDI4", 0x1400#16, 0xFF00#16⟩,
   ⟨"LDI5", 0x1500#16, 0xFF00#16⟩,
   ⟨"LDI6", 0x1600#16, 0xFF00#16⟩,
   ⟨"LDI7", 0x1700#16, 0xFF00#16⟩,
   ⟨"LDI8", 0x1800#16, 0xFF00#16⟩,
   ⟨"LDI9", 0x1900#16, 0xFF00#16⟩,
   ⟨"LDI10", 0x1A00#16, 0xFF00#16⟩,
   ⟨"LDI11", 0x1B00#16, 0xFF00#16⟩,
   ⟨"LDI12", 0x1C00#16, 0xFF00#16⟩,
   ⟨"LDI13", 0x1D00#16, 0xFF00#16⟩,
   ⟨"LDI14", 0x1E00#16, 0xFF00#16⟩,
   ⟨"LDI15", 0x1F00#16, 0xFF00#16⟩]

/-- Rows 0x20 to 0x25 of the table (R95). -/
def rowsMoveMemory : List OpRow :=
  [⟨"MOV", 0x2000#16, 0xFF00#16⟩,
   ⟨"SWAP", 0x2100#16, 0xFF00#16⟩,
   ⟨"LOAD", 0x2200#16, 0xFF00#16⟩,
   ⟨"STOR", 0x2300#16, 0xFF00#16⟩,
   ⟨"LOADZ", 0x2400#16, 0xFF00#16⟩,
   ⟨"STORZ", 0x2500#16, 0xFF00#16⟩]

/-- Rows 0x30 to 0x38 of the table (R95). -/
def rowsArithmetic : List OpRow :=
  [⟨"ADD", 0x3000#16, 0xFF00#16⟩,
   ⟨"ADC", 0x3100#16, 0xFF00#16⟩,
   ⟨"SUB", 0x3200#16, 0xFF00#16⟩,
   ⟨"SBC", 0x3300#16, 0xFF00#16⟩,
   ⟨"INC", 0x3400#16, 0xFF00#16⟩,
   ⟨"DEC", 0x3500#16, 0xFF00#16⟩,
   ⟨"CMP", 0x3600#16, 0xFF00#16⟩,
   ⟨"MUL", 0x3700#16, 0xFF00#16⟩,
   ⟨"DIV", 0x3800#16, 0xFF00#16⟩]

/-- Rows 0x40 to 0x46 of the table (R95). -/
def rowsLogic : List OpRow :=
  [⟨"AND", 0x4000#16, 0xFF00#16⟩,
   ⟨"OR", 0x4100#16, 0xFF00#16⟩,
   ⟨"XOR", 0x4200#16, 0xFF00#16⟩,
   ⟨"NOT", 0x4300#16, 0xFF00#16⟩,
   ⟨"SHL", 0x4400#16, 0xFF00#16⟩,
   ⟨"SHR", 0x4500#16, 0xFF00#16⟩,
   ⟨"TEST", 0x4600#16, 0xFF00#16⟩]

/-- Rows 0x50 to 0x59 of the table (R95). -/
def rowsControl : List OpRow :=
  [⟨"JMP", 0x5000#16, 0xFF00#16⟩,
   ⟨"JMPL", 0x5100#16, 0xFF00#16⟩,
   ⟨"JZ", 0x5200#16, 0xFF00#16⟩,
   ⟨"JNZ", 0x5300#16, 0xFF00#16⟩,
   ⟨"JC", 0x5400#16, 0xFF00#16⟩,
   ⟨"JNC", 0x5500#16, 0xFF00#16⟩,
   ⟨"JN", 0x5600#16, 0xFF00#16⟩,
   ⟨"CALL", 0x5700#16, 0xFF00#16⟩,
   ⟨"CALLL", 0x5800#16, 0xFF00#16⟩,
   ⟨"RET", 0x5900#16, 0xFF00#16⟩]

/-- Rows 0x60 to 0xFF of the table (R95). -/
def rowsStackIo : List OpRow :=
  [⟨"PUSH", 0x6000#16, 0xFF00#16⟩,
   ⟨"POP", 0x6100#16, 0xFF00#16⟩,
   ⟨"PRINT", 0x7000#16, 0xFF00#16⟩,
   ⟨"INPUT", 0x7100#16, 0xFF00#16⟩,
   ⟨"HLT", 0xFF00#16, 0xFF00#16⟩]

/-- The 54 rows of spec/opcode_table.json (R103). -/
def opcodeTable : List OpRow :=
  rowsLoadImmediate ++ rowsMoveMemory ++ rowsArithmetic ++ rowsLogic ++ rowsControl ++ rowsStackIo

/-- The instruction the decoder reads from the table's numbering of its bits: the table numbers one 16-bit word
`IW = op ++ arg`, so bits 15:8 are the byte at the lower address (R91, R103; log 11). -/
def decodeTableWord (nbits w : Nat) : Option Instr := (decodeWord (BitVec.ofNat 16 (w % 2 ^ nbits))).toOption

end Sys2Proof
end

