-- ==== Sys2Proof/Config.lean ====
section
/-! DEFINITION. What an implementation fixes: the order in which POP fills registers, the fault codes the hardware raises,
and the spec's defaults of the two build parameters. The parameters' values stand in State (log 1), so that
every statement covers both values of each. -/

namespace Sys2Proof

/-- `POP_ORDER` (00_scope.md R5; 44_stack.md R201; 90_conflicts.md C1). -/
inductive PopOrder where
  /-- The operation contract of the source: from `rx` up to `ry`. The spec's default. -/
  | ascending
  /-- The alternative that makes the source's stack law hold: from `ry` down to `rx`. -/
  | descending
  deriving DecidableEq, Repr

/-- The three faults the hardware raises (60_exceptions.md R221). No other code is ever raised (R224, R225). -/
inductive FaultCode where
  /-- `INVALID_OPCODE`, raised by a step that fetches one of the 202 invalid opcodes (45_io_halt_invalid.md R213). -/
  | invalidOpcode
  /-- `DIV_ZERO`, raised by DIV with a zero divisor (41_arithmetic.md R148). -/
  | divZero
  /-- `MISALIGNED_PC`, raised by a step that starts with an odd `pc` (60_exceptions.md R223). -/
  | misalignedPc
  deriving DecidableEq, Repr

/-- The spec's default of `MMIO_HOOK` (00_scope.md R5; 20_memory.md R72). -/
def Config.mmioHookDefault : Bool := false

/-- The spec's default of `POP_ORDER` (00_scope.md R5; 90_conflicts.md C1). -/
def Config.popOrderDefault : PopOrder := .ascending

end Sys2Proof
end

