-- ==== Sys2Proof/Machine/State.lean ====
section
/-! DEFINITION. The machine's state (10_state.md), the reasons a step or a host action can stop, and the state after reset. -/

namespace Sys2Proof.Machine

/-- The 64 KiB memory (20_memory.md R60): (address, byte) pairs with rising addresses, no entry equal to what reset
leaves in that cell (log 10). The operations on it are in Machine/Ops.lean. -/
abbrev Memory := List Host.Cell

/-- The whole state of the machine, and the parameters and character environment that the step reads. -/
structure State where
  /-- `x[0]` to `x[15]` (10_state.md R20). -/
  regs : Vector Byte 16
  /-- The program counter, any 16-bit value between steps (R25, R28). -/
  pc : Addr
  /-- The zero flag (R29). -/
  z : Bool
  /-- The carry flag (R29). -/
  c : Bool
  /-- The negative flag (R29). -/
  n : Bool
  /-- Set by HLT, cleared by reset alone (R32). -/
  halted : Bool
  /-- The 65,536 memory bytes (20_memory.md R60); they hold the saved `pc` and the fault vector (10_state.md R33). -/
  mem : Memory
  /-- The output trace: the bytes given to the character-output port, oldest first (R38; log 4). -/
  charOut : List Byte
  /-- The `CHAR_IN` environment: the answers to the coming input requests, 0 once the list is used up (R39; log 2). -/
  charIn : List Byte
  /-- Is a character-output port attached (R38; log 3)? -/
  charOutAttached : Bool
  /-- Is a character-input port attached (R39; log 3)? -/
  charInAttached : Bool
  /-- The build parameter `MMIO_HOOK` (20_memory.md R72; log 1). -/
  mmioHook : Bool
  /-- The build parameter `POP_ORDER` (44_stack.md R201; log 1). -/
  popOrder : PopOrder
  deriving DecidableEq, Repr

/-- The reasons for which a step stops the machine: none. Every fault of the spec is taken inside the machine and the
step goes on to a next state (60_exceptions.md R226, R235; log 9). -/
inductive Fault where
  deriving DecidableEq, Repr

/-- The reasons for which the model refuses. -/
inductive Refusal where
  /-- Raised by an arm of `exec` whose instruction has no meaning yet; no arm of this model does. Safe: nothing is
  claimed about the instruction. -/
  | notModelled (mnemonic : String)
  /-- Raised by the host action `loadProgram` for an image with `S + L > 65536`, which is outside the contract
  (70_reset_and_hazards.md R257; log 7). Safe: the load is not wrapped and nothing is written. -/
  | imageDoesNotFit
  deriving DecidableEq, Repr

/-- The outcome of one instruction or one step. -/
abbrev Result := Host.Outcome State Fault Refusal

/-- The machine right after reset (10_state.md R43; 70_reset_and_hazards.md R250). The last six fields are not
architectural state (R251): the defaults of the two parameters (log 1) and the environment's values (log 2, 3, 4). -/
def State.reset : State where
  regs := Vector.replicate 16 0x00#8
  pc := 0x0200#16
  z := false
  c := false
  n := false
  halted := false
  mem := []
  charOut := []
  charIn := []
  charOutAttached := true
  charInAttached := true
  mmioHook := Config.mmioHookDefault
  popOrder := Config.popOrderDefault

end Sys2Proof.Machine
end

