-- ==== Sys2Proof/Machine/Ops.lean ====
section
/-! DEFINITION. The named operations every meaning goes through: memory cells, registers, `pc`, the stack pointer, the
two character ports, placing and fetching an instruction's bytes, and taking a fault. There is no return from a
fault: the machine has no such instruction (60_exceptions.md R230). -/

namespace Sys2Proof.Machine

/-! ## Memory (20_memory.md R60 to R72) -/

/-- The address of the high byte of the `pc` that a fault saves (10_state.md R33). -/
def savedPcHiAddr : Addr := 0x00FC#16

/-- The address of the low byte of the `pc` that a fault saves (10_state.md R33). -/
def savedPcLoAddr : Addr := 0x00FD#16

/-- The address of the high byte of the fault vector (10_state.md R33). -/
def vectorHiAddr : Addr := 0x00FE#16

/-- The address of the low byte of the fault vector (10_state.md R33). -/
def vectorLoAddr : Addr := 0x00FF#16

/-- What a cell holds after reset, and so what an unlisted cell reads as (10_state.md R43; log 10): the vector `0xFFFE`
at `0x00FE`, the backstop `0xFF 0xFF` at `0xFFFE`, zero elsewhere. -/
def resetByte (a : Nat) : Byte :=
  if a = 0x00FE then 0xFF#8
  else if a = 0x00FF then 0xFE#8
  else if a = 0xFFFE then 0xFF#8
  else if a = 0xFFFF then 0xFF#8
  else 0x00#8

/-- The byte in a cell: its entry, or what reset left there. -/
def Memory.read : Memory → Nat → Byte
  | [], a => resetByte a
  | (k, v) :: m, a => if a = k then v else Memory.read m a

/-- The memory with no entry for a cell. -/
def Memory.erase (m : Memory) (a : Nat) : Memory := m.filter fun e => e.1 ≠ a

/-- A new entry before the first entry of a higher address. -/
def Memory.insert : Memory → Nat → Byte → Memory
  | [], a, v => [(a, v)]
  | (k, w) :: m, a, v => if a < k then (a, v) :: (k, w) :: m else (k, w) :: Memory.insert m a v

/-- The memory with a cell set. Setting a cell to what reset leaves there removes its entry, so equal memories are
equal lists (log 10). -/
def Memory.write (m : Memory) (a : Nat) (v : Byte) : Memory :=
  if v = resetByte a then Memory.erase m a else Memory.insert (Memory.erase m a) a v

/-- The canonical form from an address on: addresses rising, inside the 64 KiB, no entry equal to the reset byte. -/
def Memory.wfFrom : Nat → Memory → Bool
  | _, [] => true
  | lo, (k, v) :: m => decide (lo ≤ k) && decide (k < 65536) && decide (v ≠ resetByte k) && Memory.wfFrom (k + 1) m

/-- The canonical form of a memory (log 10). -/
def Memory.wf (m : Memory) : Bool := Memory.wfFrom 0 m

/-- `MemRead(a, 1)`: never faults, at any address (00_scope.md R10; 20_memory.md R60). -/
def State.readMem (s : State) (a : Addr) : Byte := Memory.read s.mem a.toNat

/-- `MemWrite(a, 1, v)`: never faults, every cell is writable (00_scope.md R10; 20_memory.md R60, R70). -/
def State.writeMem (s : State) (a : Addr) (v : Byte) : State := { s with mem := Memory.write s.mem a.toNat v }

/-! ## Registers, flags, `pc`, stack pointer (10_state.md R20 to R30) -/

/-- `x[r]` (R9, R20). -/
def State.reg (s : State) (r : RegIdx) : Byte := s.regs[r.toNat]'r.isLt

/-- `x[r] <- v` (R9, R20): no register is hard-wired. -/
def State.setReg (s : State) (r : RegIdx) (v : Byte) : State := { s with regs := s.regs.set r.toNat v r.isLt }

/-- All three flags at once. -/
def State.setFlags (s : State) (z c n : Bool) : State := { s with z := z, c := c, n := n }

/-- `pc <- v`: no check is made when `pc` is written (R28). -/
def State.setPc (s : State) (v : Addr) : State := { s with pc := v }

/-- `next`: the address of the following instruction, wrapping (R26; log 6). -/
def State.nextPc (s : State) : Addr := s.pc + 2#16

/-- `pc <- next` (R26). -/
def State.advance (s : State) : State := s.setPc s.nextPc

/-- `pair(r)`: the 16-bit value of the registers `r` and `nx(r)`, high byte in `r` (R21). -/
def State.pair (s : State) (r : RegIdx) : Addr := joinBytes (s.reg r) (s.reg (nx r))

/-- `sp`: `x[14] ++ x[15]` (R22). -/
def State.sp (s : State) : Addr := joinBytes (s.reg 14#4) (s.reg 15#4)

/-- `SetSP(v)` (00_scope.md R10). -/
def State.setSp (s : State) (v : Addr) : State := (s.setReg 14#4 (hiByte v)).setReg 15#4 (loByte v)

/-- HLT's effect on the halted indicator (R32). -/
def State.halt (s : State) : State := { s with halted := true }

/-! ## The stack (20_memory.md R61, R62; 43_control.md R188, R190; 44_stack.md R200, R201) -/

/-- CALL's and CALLL's push of `pc + 2`: the high byte at the new stack pointer, the low byte one above (R188). -/
def State.pushReturn (s : State) : State :=
  let top := s.sp - 2#16
  ((s.writeMem top (hiByte s.nextPc)).writeMem (top + 1#16) (loByte s.nextPc)).setSp top

/-- RET's pop: `pc` from the two bytes at the stack pointer, high byte first; the stack pointer two up (R190). -/
def State.popReturn (s : State) : State :=
  (s.setPc (joinBytes (s.readMem s.sp) (s.readMem (s.sp + 1#16)))).setSp (s.sp + 2#16)

/-- PUSH's loop: each register in turn one byte lower; gives the final stack pointer (R200). -/
def pushLoop : List RegIdx → Addr → State → Addr × State
  | [], sp, s => (sp, s)
  | r :: rs, sp, s => pushLoop rs (sp - 1#16) (s.writeMem (sp - 1#16) (s.reg r))

/-- POP's loop: each byte in turn into the next register of the list; gives the final stack pointer (R201). -/
def popLoop : List RegIdx → Addr → State → Addr × State
  | [], sp, s => (sp, s)
  | r :: rs, sp, s => popLoop rs (sp + 1#16) (s.setReg r (s.readMem sp))

/-- Push the registers of a list; the stack pointer is read once before the loop and written once after it (R200). -/
def State.pushRegs (s : State) (rs : List RegIdx) : State :=
  let (sp, t) := pushLoop rs s.sp s
  t.setSp sp

/-- Pop into the registers of a list; the stack pointer is read once before the loop and written once after it, over
whatever was popped into registers 14 and 15 (R201). -/
def State.popRegs (s : State) (rs : List RegIdx) : State :=
  let (sp, t) := popLoop rs s.sp s
  t.setSp sp

/-! ## The character ports (10_state.md R38, R39) -/

/-- `CharOut(v)`: the trace gains the byte when a port is attached; without one nothing happens (R38; log 4). -/
def State.putChar (s : State) (v : Byte) : State :=
  if s.charOutAttached then { s with charOut := s.charOut ++ [v] } else s

/-- The byte `CharIn()` answers: 0 with no port attached or with nothing waiting, else the next byte (R39; log 2). -/
def State.charInByte (s : State) : Byte := if s.charInAttached then s.charIn.headD 0x00#8 else 0x00#8

/-- The state after `CharIn()`: the byte delivered is consumed (R39). -/
def State.takeChar (s : State) : State := if s.charInAttached then { s with charIn := s.charIn.tail } else s

/-! ## Fetch (60_exceptions.md R220, step 3) -/

/-- The opcode byte `MemRead(pc, 1)`. -/
def State.fetchOp (s : State) : Byte := s.readMem s.pc

/-- The operand byte `MemRead((pc + 1) mod 65536, 1)`. -/
def State.fetchArg (s : State) : Byte := s.readMem (s.pc + 1#16)

/-- An instruction word stored at an address, opcode at the lower address (20_memory.md R63). -/
def State.placeWord (s : State) (a : Addr) (iw : BitVec 16) : State :=
  (s.writeMem a (hiByte iw)).writeMem (a + 1#16) (loByte iw)

/-- The state made ready to fetch (R220, steps 1 and 2): not halted, and the low bit of `pc` clear. -/
def State.readyToFetch (s : State) : State := { s with halted := false, pc := s.pc &&& 0xFFFE#16 }

/-! ## Taking a fault (60_exceptions.md R226) -/

/-- The byte a fault code is (R221). -/
def faultByte : FaultCode → Byte
  | .invalidOpcode => 0x01#8
  | .divZero => 0x02#8
  | .misalignedPc => 0x03#8

/-- The fault vector `mem[0x00FE] ++ mem[0x00FF]`, read on every fault (R234). -/
def State.faultVector (s : State) : Addr := joinBytes (s.readMem vectorHiAddr) (s.readMem vectorLoAddr)

/-- The `pc` a fault saved, `mem[0x00FC] ++ mem[0x00FD]` (R229). -/
def State.savedPc (s : State) : Addr := joinBytes (s.readMem savedPcHiAddr) (s.readMem savedPcLoAddr)

/-- `raise Fault(code)`: the code into `x[0]`, the step's `pc` into `0x00FC..0x00FD`, then `pc` from the vector; nothing
else changes (R226). -/
def State.takeFault (s : State) (code : FaultCode) : State :=
  let s₁ := s.setReg 0#4 (faultByte code)
  let s₂ := s₁.writeMem savedPcHiAddr (hiByte s.pc)
  let s₃ := s₂.writeMem savedPcLoAddr (loByte s.pc)
  s₃.setPc s₃.faultVector

end Sys2Proof.Machine
end

