-- ==== Sys2Proof/Machine/Flags.lean ====
section
/-! DEFINITION. The arithmetic-logic unit and every flag computation (10_state.md R29, R30). Operands are read as natural
numbers, the exact result is computed, and it is narrowed to a byte at the end (00_scope.md R7). -/

namespace Sys2Proof.Machine

/-- A byte result with its carry or borrow. -/
structure AluResult where
  value : Byte
  carry : Bool
  deriving DecidableEq, Repr

/-- `Z` of a byte result: it equals 0 (R29). -/
def isZero (v : Byte) : Bool := v == 0x00#8

/-- `N` of a byte result: its bit 7 (R29). -/
def isNegative (v : Byte) : Bool := v.getLsbD 7

/-- `SetZN(v)` (00_scope.md R10): `C` is unchanged. -/
def State.setZN (s : State) (v : Byte) : State := s.setFlags (isZero v) s.c (isNegative v)

/-- `SetZN(v)` and `C` together. -/
def State.setZCN (s : State) (r : AluResult) : State := s.setFlags (isZero r.value) r.carry (isNegative r.value)

/-- The sum with carry in; carry is "raw > 255" (41_arithmetic.md R140, R141, R144). -/
def addBytes (a b : Byte) (cin : Bool) : AluResult :=
  let raw := a.toNat + b.toNat + cin.toNat
  ⟨BitVec.ofNat 8 raw, decide (raw > 255)⟩

/-- The difference with borrow in; carry is the borrow "subtrahend + borrow > minuend" (R142, R143, R145). -/
def subBytes (a b : Byte) (bin : Bool) : AluResult :=
  ⟨BitVec.ofInt 8 ((a.toNat : Int) - b.toNat - bin.toNat), decide (b.toNat + bin.toNat > a.toNat)⟩

/-- A logical result, which clears the carry (42_logic_shift.md R160 to R163, R167). -/
def logicResult (v : Byte) : AluResult := ⟨v, false⟩

/-- Shift left through the carry: the old `C` enters at bit 0, the old bit 7 leaves (R164). -/
def shiftLeft (a : Byte) (cin : Bool) : AluResult :=
  ⟨BitVec.ofNat 8 (a.toNat * 2 + cin.toNat), a.getLsbD 7⟩

/-- Shift right through the carry: the old `C` enters at bit 7, the old bit 0 leaves (R165). -/
def shiftRight (a : Byte) (cin : Bool) : AluResult :=
  ⟨BitVec.ofNat 8 (a.toNat / 2 + cin.toNat * 128), a.getLsbD 0⟩

/-- The 16-bit product, exact: at most 65,025 (41_arithmetic.md R147). -/
def product (a b : Byte) : Addr := BitVec.ofNat 16 (a.toNat * b.toNat)

/-- MUL's flags (R147): `Z` tests the whole product, `C` says it does not fit a byte, `N` is bit 7 of its low byte. -/
def State.setMulFlags (s : State) (p : Addr) : State :=
  s.setFlags (p == 0#16) (decide (p.toNat > 255)) (p.getLsbD 7)

/-- `floor(a / b)` (R148); the divisor is not 0 where it is used. -/
def quotient (a b : Byte) : Byte := BitVec.ofNat 8 (a.toNat / b.toNat)

/-- `a mod b` (R148); the divisor is not 0 where it is used. -/
def remainder (a b : Byte) : Byte := BitVec.ofNat 8 (a.toNat % b.toNat)

/-- A result into its destination and all three flags (R30), then the next instruction. -/
def State.finishAlu (s : State) (rd : RegIdx) (r : AluResult) : State := ((s.setReg rd r.value).setZCN r).advance

/-- The flags of a result that is not stored, then the next instruction (CMP, R146). -/
def State.finishCompare (s : State) (r : AluResult) : State := (s.setZCN r).advance

end Sys2Proof.Machine
end

