-- ==== Sys2Proof/Machine/Arithmetic.lean ====
section
/-! DEFINITION. The arithmetic instructions (41_arithmetic.md R140 to R151). All operands are unsigned bytes (R149). -/

namespace Sys2Proof.Machine

/-- ADD (R140): the incoming `C` is not used. -/
def execAdd (rx ry : RegIdx) (s : State) : Result := .next (s.finishAlu rx (addBytes (s.reg rx) (s.reg ry) false))

/-- ADC (R141). -/
def execAdc (rx ry : RegIdx) (s : State) : Result := .next (s.finishAlu rx (addBytes (s.reg rx) (s.reg ry) s.c))

/-- SUB (R142): `C` is the borrow; the incoming `C` is not used. -/
def execSub (rx ry : RegIdx) (s : State) : Result := .next (s.finishAlu rx (subBytes (s.reg rx) (s.reg ry) false))

/-- SBC (R143): `C` is the borrow in and out. -/
def execSbc (rx ry : RegIdx) (s : State) : Result := .next (s.finishAlu rx (subBytes (s.reg rx) (s.reg ry) s.c))

/-- INC (R144): unlike many processors it does write `C`. -/
def execInc (rx : RegIdx) (s : State) : Result := .next (s.finishAlu rx (addBytes (s.reg rx) 0x01#8 false))

/-- DEC (R145): `C` is the borrow. -/
def execDec (rx : RegIdx) (s : State) : Result := .next (s.finishAlu rx (subBytes (s.reg rx) 0x01#8 false))

/-- CMP (R146): SUB's flags, nothing stored. -/
def execCmp (rx ry : RegIdx) (s : State) : Result := .next (s.finishCompare (subBytes (s.reg rx) (s.reg ry) false))

/-- MUL (R147): the high byte of the product into `x[rx]`, the low byte into `x[nx(rx)]`, both from the old operands. -/
def execMul (rx ry : RegIdx) (s : State) : Result :=
  let p := product (s.reg rx) (s.reg ry)
  .next (((s.setReg rx (hiByte p)).setReg (nx rx) (loByte p)).setMulFlags p).advance

/-- DIV with a divisor that is not 0 (R148): quotient, then remainder, both from the old operands; `C` cleared. -/
def State.divide (s : State) (rx ry : RegIdx) : State :=
  let q := quotient (s.reg rx) (s.reg ry)
  let r := remainder (s.reg rx) (s.reg ry)
  (((s.setReg rx q).setReg (nx rx) r).setZCN ⟨q, false⟩).advance

/-- DIV (R148): a zero divisor takes the fault DIV_ZERO, with `pc` still the address of the DIV. -/
def execDiv (rx ry : RegIdx) (s : State) : Result :=
  .next (if s.reg ry = 0x00#8 then s.takeFault .divZero else s.divide rx ry)

end Sys2Proof.Machine
end

