-- ==== Sys2Proof/Machine/Operands.lean ====
section
/-! DEFINITION. The operand forms: the four ways to form a data address (20_memory.md R79), jump targets, register
ranges, and a program's loads and stores with the optional character hook (R72). -/

namespace Sys2Proof.Machine

/-- The data address of LOAD and STOR: the pair that starts at `ry` (40_move_load_store.md R124, R125). -/
def State.pairAddr (s : State) (ry : RegIdx) : Addr := s.pair ry

/-- The data address of LOADZ and STORZ: `zext_16(imm)` (R126, R127). -/
def zeroPageAddr (imm : Byte) : Addr := zext16 imm

/-- `rel(imm) = (pc + 2 + sext_16(imm)) mod 65536` (43_control.md R180). -/
def State.relTarget (s : State) (imm : Byte) : Addr := s.nextPc + sext16 imm

/-- The target of JMPL and CALLL: `x[rx] ++ x[ry]`, two registers named independently (R182, R189). -/
def State.regsTarget (s : State) (rx ry : RegIdx) : Addr := joinBytes (s.reg rx) (s.reg ry)

/-- The branch taken when a condition holds, else the next instruction (R183 to R187). -/
def State.branchIf (s : State) (cond : Bool) (imm : Byte) : State :=
  s.setPc (if cond then s.relTarget imm else s.nextPc)

/-- The `k` registers from `r` on, wrapping (10_state.md R21). -/
def regsFrom : Nat → RegIdx → List RegIdx
  | 0, _ => []
  | k + 1, r => r :: regsFrom k (nx r)

/-- The range `rx..ry`: `((ry - rx) mod 16) + 1` registers, from 1 to 16 (44_stack.md R202). -/
def regRange (rx ry : RegIdx) : List RegIdx := regsFrom ((ry - rx).toNat + 1) rx

/-- The registers in the order in which POP fills them (R201): the range, or the range backwards. -/
def popRange (order : PopOrder) (rx ry : RegIdx) : List RegIdx :=
  match order with
  | .ascending => regRange rx ry
  | .descending => (regRange rx ry).reverse

/-- The address whose stores by STOR and STORZ are output when the hook is on (20_memory.md R72). -/
def hookOutAddr : Addr := 0x00FA#16

/-- The address whose loads by LOAD and LOADZ are input when the hook is on (20_memory.md R72). -/
def hookInAddr : Addr := 0x00FB#16

/-- Is a load from this address answered by the character-input port (R72)? -/
def State.loadHooked (s : State) (a : Addr) : Bool := a == hookInAddr && s.mmioHook

/-- Is a store to this address followed by character output (R72)? -/
def State.storeHooked (s : State) (a : Addr) : Bool := a == hookOutAddr && s.mmioHook

/-- The byte a program's load gets from an address: memory, or `CharIn()` where hooked (R72). -/
def State.loadByte (s : State) (a : Addr) : Byte := if s.loadHooked a then s.charInByte else s.readMem a

/-- The state after a program's load: a hooked one consumes an input byte (R72). -/
def State.afterLoad (s : State) (a : Addr) : State := if s.loadHooked a then s.takeChar else s

/-- A program's store: the cell takes the byte, and where hooked `CharOut` follows (R72). -/
def State.storeByte (s : State) (a : Addr) (v : Byte) : State :=
  if s.storeHooked a then (s.writeMem a v).putChar v else s.writeMem a v

end Sys2Proof.Machine
end

