-- ==== Sys2Proof/Machine/Control.lean ====
section
/-! DEFINITION. Jumps, branches, calls and return (43_control.md R180 to R193). No target is checked or aligned: an odd one
faults at the start of the next step (R191; 10_state.md R28). -/

namespace Sys2Proof.Machine

/-- JMP (R181). -/
def execJmp (imm : Byte) (s : State) : Result := .next (s.setPc (s.relTarget imm))

/-- JMPL (R182): `x[rx]` is the high byte of the target, `x[ry]` the low byte. -/
def execJmpl (rx ry : RegIdx) (s : State) : Result := .next (s.setPc (s.regsTarget rx ry))

/-- JZ (R183). -/
def execJz (imm : Byte) (s : State) : Result := .next (s.branchIf s.z imm)

/-- JNZ (R184). -/
def execJnz (imm : Byte) (s : State) : Result := .next (s.branchIf (!s.z) imm)

/-- JC (R185). -/
def execJc (imm : Byte) (s : State) : Result := .next (s.branchIf s.c imm)

/-- JNC (R186). -/
def execJnc (imm : Byte) (s : State) : Result := .next (s.branchIf (!s.c) imm)

/-- JN (R187). -/
def execJn (imm : Byte) (s : State) : Result := .next (s.branchIf s.n imm)

/-- CALL (R188): the push, then the jump relative to the CALL's own address. -/
def execCall (imm : Byte) (s : State) : Result := .next (s.pushReturn.setPc (s.relTarget imm))

/-- CALLL (R189): the push, then the jump; the target registers are read after the stack pointer is written back
(log 15). -/
def execCalll (rx ry : RegIdx) (s : State) : Result := .next (s.pushReturn.setPc (s.pushReturn.regsTarget rx ry))

/-- RET (R190). -/
def execRet (s : State) : Result := .next s.popReturn

end Sys2Proof.Machine
end

