-- ==== Sys2Proof/Machine/IoHalt.lean ====
section
/-! DEFINITION. PRINT, INPUT and HLT (45_io_halt_invalid.md R210 to R212). -/

namespace Sys2Proof.Machine

/-- PRINT (R210). -/
def execPrint (rx : RegIdx) (s : State) : Result := .next (s.putChar (s.reg rx)).advance

/-- INPUT (R211): takes a byte without waiting; `Z` and `N` from it, `C` preserved. -/
def execInput (rx : RegIdx) (s : State) : Result :=
  .next ((s.takeChar.setReg rx s.charInByte).setZN s.charInByte).advance

/-- HLT (R212): `pc` is not changed. -/
def execHlt (s : State) : Result := .next s.halt

end Sys2Proof.Machine
end

