-- ==== Sys2Proof/Machine/LogicShift.lean ====
section
/-! DEFINITION. The logic, shift and test instructions (42_logic_shift.md R160 to R169). -/

namespace Sys2Proof.Machine

/-- AND (R160): clears `C`. -/
def execAnd (rx ry : RegIdx) (s : State) : Result := .next (s.finishAlu rx (logicResult (s.reg rx &&& s.reg ry)))

/-- OR (R161): clears `C`. -/
def execOr (rx ry : RegIdx) (s : State) : Result := .next (s.finishAlu rx (logicResult (s.reg rx ||| s.reg ry)))

/-- XOR (R162): clears `C`. -/
def execXor (rx ry : RegIdx) (s : State) : Result := .next (s.finishAlu rx (logicResult (s.reg rx ^^^ s.reg ry)))

/-- NOT (R163): clears `C`; `Z` is computed from the result. -/
def execNot (rx : RegIdx) (s : State) : Result := .next (s.finishAlu rx (logicResult (~~~ (s.reg rx))))

/-- SHL (R164): a 9-bit rotate left of `C` and the register. -/
def execShl (rx : RegIdx) (s : State) : Result := .next (s.finishAlu rx (shiftLeft (s.reg rx) s.c))

/-- SHR (R165): a 9-bit rotate right of `C` and the register. -/
def execShr (rx : RegIdx) (s : State) : Result := .next (s.finishAlu rx (shiftRight (s.reg rx) s.c))

/-- TEST (R166): AND's `Z` and `N`, nothing stored, `C` preserved. -/
def execTest (rx ry : RegIdx) (s : State) : Result := .next (s.setZN (s.reg rx &&& s.reg ry)).advance

end Sys2Proof.Machine
end

