-- ==== Sys2Proof/Machine/MoveLoadStore.lean ====
section
/-! DEFINITION. NOP, the immediate loads, the moves, the loads and the stores (40_move_load_store.md R120 to R128). -/

namespace Sys2Proof.Machine

/-- NOP (R120). -/
def execNop (s : State) : Result := .next s.advance

/-- The shared effect of LDIn: an immediate into a register, no flag changed (R121). -/
def State.loadImmediate (s : State) (r : RegIdx) (imm : Byte) : State := (s.setReg r imm).advance

/-- LDI0 (R121). -/
def execLdi0 (imm : Byte) (s : State) : Result := .next (s.loadImmediate 0#4 imm)

/-- LDI1 (R121). -/
def execLdi1 (imm : Byte) (s : State) : Result := .next (s.loadImmediate 1#4 imm)

/-- LDI2 (R121). -/
def execLdi2 (imm : Byte) (s : State) : Result := .next (s.loadImmediate 2#4 imm)

/-- LDI3 (R121). -/
def execLdi3 (imm : Byte) (s : State) : Result := .next (s.loadImmediate 3#4 imm)

/-- LDI4 (R121). -/
def execLdi4 (imm : Byte) (s : State) : Result := .next (s.loadImmediate 4#4 imm)

/-- LDI5 (R121). -/
def execLdi5 (imm : Byte) (s : State) : Result := .next (s.loadImmediate 5#4 imm)

/-- LDI6 (R121). -/
def execLdi6 (imm : Byte) (s : State) : Result := .next (s.loadImmediate 6#4 imm)

/-- LDI7 (R121). -/
def execLdi7 (imm : Byte) (s : State) : Result := .next (s.loadImmediate 7#4 imm)

/-- LDI8 (R121). -/
def execLdi8 (imm : Byte) (s : State) : Result := .next (s.loadImmediate 8#4 imm)

/-- LDI9 (R121). -/
def execLdi9 (imm : Byte) (s : State) : Result := .next (s.loadImmediate 9#4 imm)

/-- LDI10 (R121). -/
def execLdi10 (imm : Byte) (s : State) : Result := .next (s.loadImmediate 10#4 imm)

/-- LDI11 (R121). -/
def execLdi11 (imm : Byte) (s : State) : Result := .next (s.loadImmediate 11#4 imm)

/-- LDI12 (R121). -/
def execLdi12 (imm : Byte) (s : State) : Result := .next (s.loadImmediate 12#4 imm)

/-- LDI13 (R121). -/
def execLdi13 (imm : Byte) (s : State) : Result := .next (s.loadImmediate 13#4 imm)

/-- LDI14 (R121). -/
def execLdi14 (imm : Byte) (s : State) : Result := .next (s.loadImmediate 14#4 imm)

/-- LDI15 (R121). -/
def execLdi15 (imm : Byte) (s : State) : Result := .next (s.loadImmediate 15#4 imm)

/-- MOV (R122). -/
def execMov (rx ry : RegIdx) (s : State) : Result := .next (s.setReg rx (s.reg ry)).advance

/-- SWAP (R123): both new values come from the old ones. -/
def execSwap (rx ry : RegIdx) (s : State) : Result :=
  .next ((s.setReg rx (s.reg ry)).setReg ry (s.reg rx)).advance

/-- LOAD (R124): the address is formed before the destination is written; a load from the hooked address is input. -/
def execLoad (rx ry : RegIdx) (s : State) : Result :=
  let a := s.pairAddr ry
  .next ((s.afterLoad a).setReg rx (s.loadByte a)).advance

/-- STOR (R125): a store to the hooked address is also output. -/
def execStor (rx ry : RegIdx) (s : State) : Result :=
  .next (s.storeByte (s.pairAddr ry) (s.reg rx)).advance

/-- LOADZ (R126): the destination is always `x[0]`. -/
def execLoadz (imm : Byte) (s : State) : Result :=
  let a := zeroPageAddr imm
  .next ((s.afterLoad a).setReg 0#4 (s.loadByte a)).advance

/-- STORZ (R127): the source is always `x[0]`. -/
def execStorz (imm : Byte) (s : State) : Result :=
  .next (s.storeByte (zeroPageAddr imm) (s.reg 0#4)).advance

end Sys2Proof.Machine
end

