-- ==== Sys2Proof/Machine/Stack.lean ====
section
/-! DEFINITION. The register-range PUSH and POP (44_stack.md R200 to R203). -/

namespace Sys2Proof.Machine

/-- PUSH (R200): the first register of the range lands at the highest address. -/
def execPush (rx ry : RegIdx) (s : State) : Result := .next (s.pushRegs (regRange rx ry)).advance

/-- POP (R201), in the order that the parameter `POP_ORDER` gives. -/
def execPop (rx ry : RegIdx) (s : State) : Result := .next (s.popRegs (popRange s.popOrder rx ry)).advance

end Sys2Proof.Machine
end

