-- ==== Sys2Proof/Machine/Dispatch.lean ====
section
/-! DEFINITION. One arm per instruction, each a direct call of its meaning. -/

namespace Sys2Proof.Machine

def exec (i : Instr) (s : State) : Host.Outcome State Fault Refusal :=
  match i with
  | .nop => Sys2Proof.Machine.execNop s
  | .ldi0 imm => Sys2Proof.Machine.execLdi0 imm s
  | .ldi1 imm => Sys2Proof.Machine.execLdi1 imm s
  | .ldi2 imm => Sys2Proof.Machine.execLdi2 imm s
  | .ldi3 imm => Sys2Proof.Machine.execLdi3 imm s
  | .ldi4 imm => Sys2Proof.Machine.execLdi4 imm s
  | .ldi5 imm => Sys2Proof.Machine.execLdi5 imm s
  | .ldi6 imm => Sys2Proof.Machine.execLdi6 imm s
  | .ldi7 imm => Sys2Proof.Machine.execLdi7 imm s
  | .ldi8 imm => Sys2Proof.Machine.execLdi8 imm s
  | .ldi9 imm => Sys2Proof.Machine.execLdi9 imm s
  | .ldi10 imm => Sys2Proof.Machine.execLdi10 imm s
  | .ldi11 imm => Sys2Proof.Machine.execLdi11 imm s
  | .ldi12 imm => Sys2Proof.Machine.execLdi12 imm s
  | .ldi13 imm => Sys2Proof.Machine.execLdi13 imm s
  | .ldi14 imm => Sys2Proof.Machine.execLdi14 imm s
  | .ldi15 imm => Sys2Proof.Machine.execLdi15 imm s
  | .mov rx ry => Sys2Proof.Machine.execMov rx ry s
  | .swap rx ry => Sys2Proof.Machine.execSwap rx ry s
  | .load rx ry => Sys2Proof.Machine.execLoad rx ry s
  | .stor rx ry => Sys2Proof.Machine.execStor rx ry s
  | .loadz imm => Sys2Proof.Machine.execLoadz imm s
  | .storz imm => Sys2Proof.Machine.execStorz imm s
  | .add rx ry => Sys2Proof.Machine.execAdd rx ry s
  | .adc rx ry => Sys2Proof.Machine.execAdc rx ry s
  | .sub rx ry => Sys2Proof.Machine.execSub rx ry s
  | .sbc rx ry => Sys2Proof.Machine.execSbc rx ry s
  | .inc rx => Sys2Proof.Machine.execInc rx s
  | .dec rx => Sys2Proof.Machine.execDec rx s
  | .cmp rx ry => Sys2Proof.Machine.execCmp rx ry s
  | .mul rx ry => Sys2Proof.Machine.execMul rx ry s
  | .div rx ry => Sys2Proof.Machine.execDiv rx ry s
  | .and rx ry => Sys2Proof.Machine.execAnd rx ry s
  | .or rx ry => Sys2Proof.Machine.execOr rx ry s
  | .xor rx ry => Sys2Proof.Machine.execXor rx ry s
  | .not rx => Sys2Proof.Machine.execNot rx s
  | .shl rx => Sys2Proof.Machine.execShl rx s
  | .shr rx => Sys2Proof.Machine.execShr rx s
  | .test rx ry => Sys2Proof.Machine.execTest rx ry s
  | .jmp imm => Sys2Proof.Machine.execJmp imm s
  | .jmpl rx ry => Sys2Proof.Machine.execJmpl rx ry s
  | .jz imm => Sys2Proof.Machine.execJz imm s
  | .jnz imm => Sys2Proof.Machine.execJnz imm s
  | .jc imm => Sys2Proof.Machine.execJc imm s
  | .jnc imm => Sys2Proof.Machine.execJnc imm s
  | .jn imm => Sys2Proof.Machine.execJn imm s
  | .call imm => Sys2Proof.Machine.execCall imm s
  | .calll rx ry => Sys2Proof.Machine.execCalll rx ry s
  | .ret => Sys2Proof.Machine.execRet s
  | .push rx ry => Sys2Proof.Machine.execPush rx ry s
  | .pop rx ry => Sys2Proof.Machine.execPop rx ry s
  | .print rx => Sys2Proof.Machine.execPrint rx s
  | .input rx => Sys2Proof.Machine.execInput rx s
  | .hlt => Sys2Proof.Machine.execHlt s

end Sys2Proof.Machine
end

