-- ==== Sys2Proof/Machine/Engine.lean ====
section
/-! DEFINITION. The step algorithm (60_exceptions.md R220). -/

namespace Sys2Proof.Machine

/-- Steps 3 to 5 of R220: fetch, decode, and execute the instruction, or take INVALID_OPCODE (R213). -/
def State.fetchAndExecute (s : State) : Host.Outcome State Fault Refusal :=
  match decode s.fetchOp s.fetchArg with
  | .instr i => exec i s
  | .invalidOpcode _ => .next (s.takeFault .invalidOpcode)

/-- R220: a halted machine does nothing (log 8); an odd `pc` takes MISALIGNED_PC before any fetch; else fetch and
execute. -/
def State.engineStep (s : State) : Host.Outcome State Fault Refusal :=
  if s.halted then .next s
  else if s.pc.getLsbD 0 then .next (s.takeFault .misalignedPc)
  else s.fetchAndExecute

end Sys2Proof.Machine
end

