-- ==== Sys2Proof/Machine/Step.lean ====
section
/-! DEFINITION. The step, and an instruction placed where the step fetches. -/

namespace Sys2Proof.Machine

/-- One step (60_exceptions.md R220). -/
def step (s : State) : Host.Outcome State Fault Refusal := s.engineStep

/-- The state with an instruction word, its bits numbered as spec/opcode_table.json numbers them (log 11), stored where
the next step fetches; the machine not halted and `pc` even, as the fetch needs (log 13). -/
def State.withFetchWord (s : State) (nbits w : Nat) : State :=
  s.readyToFetch.placeWord s.readyToFetch.pc (BitVec.ofNat 16 (w % 2 ^ nbits))

end Sys2Proof.Machine
end

