-- ==== Sys2Proof/Machine/Events.lean ====
section
/-! DEFINITION. The block's interface as events (10_state.md R36 to R39): the ordered list of a step's accesses at the memory
port and the two character ports, in the order of 20_memory.md R61 (log 16). The step does not depend on this file. -/

namespace Sys2Proof.Machine

/-- One event at a port of the engine (R36). -/
inductive PortEvent where
  /-- `MemRead(a, 1)` answered with a byte (R37). -/
  | memRead (a : Addr) (v : Byte)
  /-- `MemWrite(a, 1, v)` (R37). -/
  | memWrite (a : Addr) (v : Byte)
  /-- A byte delivered to the attached character-output port (R38). -/
  | charOut (v : Byte)
  /-- A request to the attached character-input port, answered with a byte (R39). -/
  | charIn (v : Byte)
  deriving DecidableEq, Repr

/-- The event of a memory read. -/
def State.readEvent (s : State) (a : Addr) : PortEvent := .memRead a (s.readMem a)

/-- The events of `CharOut(v)`: none without an attached port (R38). -/
def State.charOutEvents (s : State) (v : Byte) : List PortEvent := if s.charOutAttached then [.charOut v] else []

/-- The events of `CharIn()`: none without an attached port (R39). -/
def State.charInEvents (s : State) : List PortEvent := if s.charInAttached then [.charIn s.charInByte] else []

/-- The events of a program's load; a hooked one does not read memory (20_memory.md R72). -/
def State.loadEvents (s : State) (a : Addr) : List PortEvent :=
  if s.loadHooked a then s.charInEvents else [s.readEvent a]

/-- The events of a program's store; a hooked one writes memory, then outputs (R72). -/
def State.storeEvents (s : State) (a : Addr) (v : Byte) : List PortEvent :=
  .memWrite a v :: (if s.storeHooked a then s.charOutEvents v else [])

/-- The events of CALL's and CALLL's push (R61): high byte at `sp - 2`, then low byte at `sp - 1`. -/
def State.pushReturnEvents (s : State) : List PortEvent :=
  [.memWrite (s.sp - 2#16) (hiByte s.nextPc), .memWrite (s.sp - 1#16) (loByte s.nextPc)]

/-- The events of RET's pop (R61): high byte, then low byte. -/
def State.popReturnEvents (s : State) : List PortEvent := [s.readEvent s.sp, s.readEvent (s.sp + 1#16)]

/-- The events of PUSH (R61): `sp - 1`, `sp - 2`, ... in that order. -/
def State.pushEvents (s : State) : List RegIdx → Addr → List PortEvent
  | [], _ => []
  | r :: rs, sp => .memWrite (sp - 1#16) (s.reg r) :: s.pushEvents rs (sp - 1#16)

/-- The events of POP (R61): `sp`, `sp + 1`, ... in that order. -/
def State.popEvents (s : State) : List RegIdx → Addr → List PortEvent
  | [], _ => []
  | _ :: rs, sp => s.readEvent sp :: s.popEvents rs (sp + 1#16)

/-- The events of fault entry (R61; 60_exceptions.md R226): two writes, then two reads. -/
def State.faultEvents (s : State) : List PortEvent :=
  [.memWrite savedPcHiAddr (hiByte s.pc), .memWrite savedPcLoAddr (loByte s.pc), s.readEvent vectorHiAddr,
    s.readEvent vectorLoAddr]

/-- The data events of each instruction (R61): those after the two fetches. -/
def State.dataEvents (i : Instr) (s : State) : List PortEvent :=
  match i with
  | .nop => []
  | .ldi0 _ => []
  | .ldi1 _ => []
  | .ldi2 _ => []
  | .ldi3 _ => []
  | .ldi4 _ => []
  | .ldi5 _ => []
  | .ldi6 _ => []
  | .ldi7 _ => []
  | .ldi8 _ => []
  | .ldi9 _ => []
  | .ldi10 _ => []
  | .ldi11 _ => []
  | .ldi12 _ => []
  | .ldi13 _ => []
  | .ldi14 _ => []
  | .ldi15 _ => []
  | .mov _ _ => []
  | .swap _ _ => []
  | .load _ ry => s.loadEvents (s.pairAddr ry)
  | .stor rx ry => s.storeEvents (s.pairAddr ry) (s.reg rx)
  | .loadz imm => s.loadEvents (zeroPageAddr imm)
  | .storz imm => s.storeEvents (zeroPageAddr imm) (s.reg 0#4)
  | .add _ _ => []
  | .adc _ _ => []
  | .sub _ _ => []
  | .sbc _ _ => []
  | .inc _ => []
  | .dec _ => []
  | .cmp _ _ => []
  | .mul _ _ => []
  | .div _ ry => if s.reg ry = 0x00#8 then s.faultEvents else []
  | .and _ _ => []
  | .or _ _ => []
  | .xor _ _ => []
  | .not _ => []
  | .shl _ => []
  | .shr _ => []
  | .test _ _ => []
  | .jmp _ => []
  | .jmpl _ _ => []
  | .jz _ => []
  | .jnz _ => []
  | .jc _ => []
  | .jnc _ => []
  | .jn _ => []
  | .call _ => s.pushReturnEvents
  | .calll _ _ => s.pushReturnEvents
  | .ret => s.popReturnEvents
  | .push rx ry => s.pushEvents (regRange rx ry) s.sp
  | .pop rx ry => s.popEvents (popRange s.popOrder rx ry) s.sp
  | .print rx => s.charOutEvents (s.reg rx)
  | .input _ => s.charInEvents
  | .hlt => []

/-- All the events of a step in order (R37): none when halted, fault entry alone when `pc` is odd, else the opcode
fetch, the operand fetch and the data events. -/
def State.stepEvents (s : State) : List PortEvent :=
  if s.halted then []
  else if s.pc.getLsbD 0 then s.faultEvents
  else
    [s.readEvent s.pc, s.readEvent (s.pc + 1#16)] ++
      match decode s.fetchOp s.fetchArg with
      | .instr i => s.dataEvents i
      | .invalidOpcode _ => s.faultEvents

/-- The memory after the writes among a list of events, in order. -/
def replayWrites : List PortEvent → Memory → Memory
  | [], m => m
  | .memWrite a v :: es, m => replayWrites es (Memory.write m a.toNat v)
  | .memRead _ _ :: es, m => replayWrites es m
  | .charOut _ :: es, m => replayWrites es m
  | .charIn _ :: es, m => replayWrites es m

/-- The bytes output among a list of events, in order. -/
def outputsOf : List PortEvent → List Byte
  | [] => []
  | .charOut v :: es => v :: outputsOf es
  | .memWrite _ _ :: es => outputsOf es
  | .memRead _ _ :: es => outputsOf es
  | .charIn _ :: es => outputsOf es

/-- The number of character-input requests among a list of events. -/
def inputRequests : List PortEvent → Nat
  | [] => 0
  | .charIn _ :: es => inputRequests es + 1
  | .memWrite _ _ :: es => inputRequests es
  | .memRead _ _ :: es => inputRequests es
  | .charOut _ :: es => inputRequests es

end Sys2Proof.Machine
end

