-- ==== Sys2Proof/Machine/HostActions.lean ====
section
/-! DEFINITION. What the host can do between steps (70_reset_and_hazards.md R250 to R261; 10_state.md R40, R41), as
functions beside the step (log 7). -/

namespace Sys2Proof.Machine

/-- The result of a step as the host sees it (10_state.md R40). -/
inductive StepResult where
  | didNotRun
  | ran
  deriving DecidableEq, Repr

/-- `DidNotRun` exactly when the machine was halted at the start of the step; a fault entry and HLT's own step count as
`Ran` (R40; 60_exceptions.md R220). -/
def State.stepResult (s : State) : StepResult := if s.halted then .didNotRun else .ran

/-- `Reset` applied by the host (R250): all architectural state at its reset value; the ports' attachment, the bytes
already output, the input not yet consumed and the build parameters are left as they are (R251). -/
def State.hostReset (s : State) : State :=
  { State.reset with
    charOut := s.charOut
    charIn := s.charIn
    charOutAttached := s.charOutAttached
    charInAttached := s.charInAttached
    mmioHook := s.mmioHook
    popOrder := s.popOrder }

/-- `mem[a + k] <- bytes[k]`, without the hook (R257). -/
def State.copyBytes : List Byte → Addr → State → State
  | [], _, s => s
  | b :: bs, a, s => State.copyBytes bs (a + 1#16) (s.writeMem a b)

/-- `loadProgram(bytes, S)` (R257): memory only; an image that does not fit is refused. -/
def State.loadProgram (s : State) (bytes : List Byte) (start : Nat) : Host.Outcome State Fault Refusal :=
  if imageFits start bytes.length then .next (State.copyBytes bytes (BitVec.ofNat 16 start) s)
  else .refused .imageDoesNotFit

/-- A poke of a register (10_state.md R41). -/
def State.pokeReg (s : State) (r : RegIdx) (v : Byte) : State := s.setReg r v

/-- A poke of `pc`, to any 16-bit value (R41). -/
def State.pokePc (s : State) (v : Addr) : State := s.setPc v

/-- A poke of the `Z` flag (R41). -/
def State.pokeZ (s : State) (b : Bool) : State := s.setFlags b s.c s.n

/-- A poke of the `C` flag (R41). -/
def State.pokeC (s : State) (b : Bool) : State := s.setFlags s.z b s.n

/-- A poke of the `N` flag (R41). -/
def State.pokeN (s : State) (b : Bool) : State := s.setFlags s.z s.c b

/-- A poke of a memory cell (R41): no character event, whatever the hook. -/
def State.pokeMem (s : State) (a : Addr) (v : Byte) : State := s.writeMem a v

/-- The environment supplies further input bytes (R39, R261). -/
def State.supplyInput (s : State) (bytes : List Byte) : State := { s with charIn := s.charIn ++ bytes }

/-- `Run(maxSteps)` (R259): `halted` is tested before each step; gives the state and the number of steps taken. -/
def State.hostRun : Nat → State → Host.Outcome (State × Nat) Fault Refusal
  | 0, s => .next (s, 0)
  | k + 1, s =>
    if s.halted then .next (s, 0)
    else
      match step s with
      | .next t =>
        match State.hostRun k t with
        | .next (u, n) => .next (u, n + 1)
        | .fault r => .fault r
        | .refused r => .refused r
      | .fault r => .fault r
      | .refused r => .refused r

end Sys2Proof.Machine
end

