-- ==== Sys2Proof/Safety.lean ====
section
/-! DEFINITION. The words claims use: what an instruction leaves unchanged, how a run goes on, and how it ends. -/

namespace Sys2Proof.Machine

/-- Every register outside a list is unchanged. -/
def RegsKept (except : List RegIdx) (s t : State) : Prop := ∀ r, r ∉ except → t.reg r = s.reg r

/-- Every byte of memory outside a list of cells reads as before. -/
def MemKept (except : List Addr) (s t : State) : Prop := ∀ a, a ∉ except → t.readMem a = s.readMem a

/-- The three flags are unchanged. -/
def FlagsKept (s t : State) : Prop := t.z = s.z ∧ t.c = s.c ∧ t.n = s.n

/-- The output trace and the pending input are unchanged. -/
def PortsKept (s t : State) : Prop := t.charOut = s.charOut ∧ t.charIn = s.charIn

/-- The ports' attachment and the build parameters are unchanged. -/
def SetupKept (s t : State) : Prop :=
  t.charOutAttached = s.charOutAttached ∧ t.charInAttached = s.charInAttached ∧ t.mmioHook = s.mmioHook ∧
    t.popOrder = s.popOrder

/-- All but the listed registers, the listed cells, the flags, `pc` and the port traces is unchanged. -/
def Frame (regs : List RegIdx) (cells : List Addr) (s t : State) : Prop :=
  RegsKept regs s t ∧ MemKept cells s t ∧ t.halted = s.halted ∧ SetupKept s t

/-- `pc` takes a value and nothing else changes. -/
def OnlyPc (v : Addr) (s t : State) : Prop :=
  t.pc = v ∧ FlagsKept s t ∧ Frame [] [] s t ∧ PortsKept s t

/-- The flags `Z` and `N` are those of a byte, `C` is given (10_state.md R29, R30). -/
def FlagsOf (v : Byte) (carry : Bool) (t : State) : Prop :=
  t.z = (v == 0x00#8) ∧ t.c = carry ∧ t.n = v.getLsbD 7

/-- The machine is about to run an instruction: not halted, `pc` even, and the fetched bytes decode to it
(60_exceptions.md R220). -/
def AboutToRun (i : Instr) (s : State) : Prop :=
  s.halted = false ∧ s.pc.getLsbD 0 = false ∧ decode s.fetchOp s.fetchArg = .instr i

/-- The machine is about to meet an invalid opcode (45_io_halt_invalid.md R213). -/
def AboutToFetchInvalid (s : State) : Prop :=
  s.halted = false ∧ s.pc.getLsbD 0 = false ∧ validOpcode s.fetchOp = false

/-- The effect of fault entry with a code (60_exceptions.md R226): the code in `x[0]`, the old `pc` saved, `pc` at the
vector, all else unchanged. -/
def FaultTaken (code : Byte) (s t : State) : Prop :=
  t.reg 0#4 = code ∧ t.savedPc = s.pc ∧ t.pc = s.faultVector ∧ FlagsKept s t ∧
    Frame [0#4] [0x00FC#16, 0x00FD#16] s t ∧ PortsKept s t

/-- The end of a run: the only terminal state is `halted` (70_reset_and_hazards.md R260). -/
def Ended (s : State) : Prop := s.halted = true

/-- The default handler is in place: the vector is `0xFFFE` and the cell there holds HLT's opcode
(60_exceptions.md R233). -/
def DefaultHandler (s : State) : Prop := s.faultVector = 0xFFFE#16 ∧ s.readMem 0xFFFE#16 = 0xFF#8

/-- `k` steps in a row lead from one state to another. -/
def StepsTo : Nat → State → State → Prop
  | 0, s, t => t = s
  | k + 1, s, t => ∃ u, step s = .next u ∧ StepsTo k u t

/-- The flags an instruction may write (10_state.md R30). -/
inductive FlagUse where
  | none | zn | zcn
  deriving DecidableEq, Repr

/-- The flag writers' table (10_state.md R30). -/
def flagUse : Instr → FlagUse
  | .nop => .none
  | .ldi0 _ => .none
  | .ldi1 _ => .none
  | .ldi2 _ => .none
  | .ldi3 _ => .none
  | .ldi4 _ => .none
  | .ldi5 _ => .none
  | .ldi6 _ => .none
  | .ldi7 _ => .none
  | .ldi8 _ => .none
  | .ldi9 _ => .none
  | .ldi10 _ => .none
  | .ldi11 _ => .none
  | .ldi12 _ => .none
  | .ldi13 _ => .none
  | .ldi14 _ => .none
  | .ldi15 _ => .none
  | .mov _ _ => .none
  | .swap _ _ => .none
  | .load _ _ => .none
  | .stor _ _ => .none
  | .loadz _ => .none
  | .storz _ => .none
  | .add _ _ => .zcn
  | .adc _ _ => .zcn
  | .sub _ _ => .zcn
  | .sbc _ _ => .zcn
  | .inc _ => .zcn
  | .dec _ => .zcn
  | .cmp _ _ => .zcn
  | .mul _ _ => .zcn
  | .div _ _ => .zcn
  | .and _ _ => .zcn
  | .or _ _ => .zcn
  | .xor _ _ => .zcn
  | .not _ => .zcn
  | .shl _ => .zcn
  | .shr _ => .zcn
  | .test _ _ => .zn
  | .jmp _ => .none
  | .jmpl _ _ => .none
  | .jz _ => .none
  | .jnz _ => .none
  | .jc _ => .none
  | .jnc _ => .none
  | .jn _ => .none
  | .call _ => .none
  | .calll _ _ => .none
  | .ret => .none
  | .push _ _ => .none
  | .pop _ _ => .none
  | .print _ => .none
  | .input _ => .zn
  | .hlt => .none

/-- The registers an instruction may write in a state (10_state.md R23). -/
def writtenRegs (s : State) : Instr → List RegIdx
  | .nop => []
  | .ldi0 _ => [0#4]
  | .ldi1 _ => [1#4]
  | .ldi2 _ => [2#4]
  | .ldi3 _ => [3#4]
  | .ldi4 _ => [4#4]
  | .ldi5 _ => [5#4]
  | .ldi6 _ => [6#4]
  | .ldi7 _ => [7#4]
  | .ldi8 _ => [8#4]
  | .ldi9 _ => [9#4]
  | .ldi10 _ => [10#4]
  | .ldi11 _ => [11#4]
  | .ldi12 _ => [12#4]
  | .ldi13 _ => [13#4]
  | .ldi14 _ => [14#4]
  | .ldi15 _ => [15#4]
  | .mov rx _ => [rx]
  | .swap rx ry => [rx, ry]
  | .load rx _ => [rx]
  | .stor _ _ => []
  | .loadz _ => [0#4]
  | .storz _ => []
  | .add rx _ => [rx]
  | .adc rx _ => [rx]
  | .sub rx _ => [rx]
  | .sbc rx _ => [rx]
  | .inc rx => [rx]
  | .dec rx => [rx]
  | .cmp _ _ => []
  | .mul rx _ => [rx, nx rx]
  | .div rx ry => if s.reg ry = 0x00#8 then [0#4] else [rx, nx rx]
  | .and rx _ => [rx]
  | .or rx _ => [rx]
  | .xor rx _ => [rx]
  | .not rx => [rx]
  | .shl rx => [rx]
  | .shr rx => [rx]
  | .test _ _ => []
  | .jmp _ => []
  | .jmpl _ _ => []
  | .jz _ => []
  | .jnz _ => []
  | .jc _ => []
  | .jnc _ => []
  | .jn _ => []
  | .call _ => [14#4, 15#4]
  | .calll _ _ => [14#4, 15#4]
  | .ret => [14#4, 15#4]
  | .push _ _ => [14#4, 15#4]
  | .pop rx ry => regRange rx ry ++ [14#4, 15#4]
  | .print _ => []
  | .input rx => [rx]
  | .hlt => []

end Sys2Proof.Machine
end

