-- ==== Sys2Proof/Certificates/Slice0/Obligations.lean ====
section
/-! DEFINITION. The statements for the provers. -/

open Sys2Proof Sys2Proof.Machine

/-! ## Words the statements share -/

namespace Sys2Proof.Claims

/-- The invalid opcode values as 30_encoding.md R99 lists them. -/
def invalidOpcodeValue (n : Nat) : Bool :=
  (0x01 ≤ n && n ≤ 0x0F) || (0x26 ≤ n && n ≤ 0x2F) || (0x39 ≤ n && n ≤ 0x3F) || (0x47 ≤ n && n ≤ 0x4F) ||
    (0x5A ≤ n && n ≤ 0x5F) || (0x62 ≤ n && n ≤ 0x6F) || (0x72 ≤ n && n ≤ 0xFE)

/-- The `n` cells below the stack pointer: `sp - 1` down to `sp - n`. -/
def belowSp (s : State) (n : Nat) : List Addr := (List.range n).map fun k => s.sp - BitVec.ofNat 16 (k + 1)

/-- A program's load from an address into a register: the cell's byte, or where the hook is on and the address is
`0x00FB` the next pending input byte, which is consumed, or 0 without a port or a byte (20_memory.md R72; log 2). -/
def LoadedFrom (a : Addr) (rd : RegIdx) (s t : State) : Prop :=
  (¬ (s.mmioHook = true ∧ a = 0x00FB#16) → t.reg rd = s.readMem a ∧ t.charIn = s.charIn) ∧
  (s.mmioHook = true → a = 0x00FB#16 → s.charInAttached = false → t.reg rd = 0x00#8 ∧ t.charIn = s.charIn) ∧
  (s.mmioHook = true → a = 0x00FB#16 → s.charInAttached = true → s.charIn = [] →
    t.reg rd = 0x00#8 ∧ t.charIn = []) ∧
  (∀ b rest, s.mmioHook = true → a = 0x00FB#16 → s.charInAttached = true → s.charIn = b :: rest →
    t.reg rd = b ∧ t.charIn = rest) ∧
  t.pc = s.pc + 2#16 ∧ t.charOut = s.charOut ∧ FlagsKept s t ∧ Frame [rd] [] s t

/-- A program's store of a byte to an address: the cell takes the byte, and where the hook is on, the address is `0x00FA`
and an output port is attached, the trace gains it (20_memory.md R72; log 4). -/
def StoredTo (a : Addr) (v : Byte) (s t : State) : Prop :=
  t.readMem a = v ∧
  t.charOut = (if s.mmioHook = true ∧ a = 0x00FA#16 ∧ s.charOutAttached = true then s.charOut ++ [v] else s.charOut) ∧
  t.pc = s.pc + 2#16 ∧ t.charIn = s.charIn ∧ FlagsKept s t ∧ Frame [] [a] s t

/-- A byte result in a register with all three flags, and the next instruction. -/
def ResultStored (rd : RegIdx) (v : Byte) (carry : Bool) (s t : State) : Prop :=
  t.reg rd = v ∧ FlagsOf v carry t ∧ t.pc = s.pc + 2#16 ∧ Frame [rd] [] s t ∧ PortsKept s t

/-- An exact sum narrowed to a byte, with the carry that it exceeds 255 (41_arithmetic.md R140). -/
def SumStored (rd : RegIdx) (raw : Nat) (s t : State) : Prop :=
  (t.reg rd).toNat = raw % 256 ∧ ResultStored rd (t.reg rd) (decide (255 < raw)) s t

/-- An exact difference narrowed to a byte, with the borrow that it is negative (41_arithmetic.md R142). -/
def DifferenceStored (rd : RegIdx) (minuend : Byte) (subtrahend : Nat) (s t : State) : Prop :=
  ((t.reg rd).toNat : Int) = ((minuend.toNat : Int) - subtrahend) % 256 ∧
    ResultStored rd (t.reg rd) (decide (minuend.toNat < subtrahend)) s t

/-- The push of a return address: `pc + 2` big-endian below the stack pointer, which falls by 2 (43_control.md R188). -/
def ReturnPushed (s t : State) : Prop :=
  t.readMem (s.sp - 2#16) = hiByte (s.pc + 2#16) ∧ t.readMem (s.sp - 1#16) = loByte (s.pc + 2#16) ∧
    joinBytes (t.reg 14#4) (t.reg 15#4) = joinBytes (s.reg 14#4) (s.reg 15#4) - 2#16 ∧ FlagsKept s t ∧
    Frame [14#4, 15#4] [s.sp - 2#16, s.sp - 1#16] s t ∧ PortsKept s t

/-- The two fetches of a step: the opcode at `pc`, the operand at `pc + 1` (10_state.md R37). -/
def fetchAccesses (s : State) : List PortEvent :=
  [.memRead s.pc (s.readMem s.pc), .memRead (s.pc + 1#16) (s.readMem (s.pc + 1#16))]

/-- The four accesses of fault entry: two writes, then two reads (20_memory.md R61). -/
def faultAccesses (s : State) : List PortEvent :=
  [.memWrite 0x00FC#16 (hiByte s.pc), .memWrite 0x00FD#16 (loByte s.pc),
    .memRead 0x00FE#16 (s.readMem 0x00FE#16), .memRead 0x00FF#16 (s.readMem 0x00FF#16)]

/-- The output event of a byte, while a port is attached (10_state.md R38; log 16). -/
def outputAccess (s : State) (v : Byte) : List PortEvent := if s.charOutAttached = true then [.charOut v] else []

/-- The input request, while a port is attached, with the byte it is answered: 0 when nothing waits (10_state.md R39;
log 16). -/
def inputAccess (s : State) : List PortEvent :=
  if s.charInAttached = true then [.charIn (s.charIn.headD 0x00#8)] else []

/-- A program's load: one read of the cell, or the input request where hooked, and then no read (20_memory.md R72). -/
def loadAccess (s : State) (a : Addr) : List PortEvent :=
  if s.mmioHook = true ∧ a = 0x00FB#16 then inputAccess s else [.memRead a (s.readMem a)]

/-- A program's store: one write of the cell, and the output after it where hooked (20_memory.md R72). -/
def storeAccess (s : State) (a : Addr) (v : Byte) : List PortEvent :=
  [.memWrite a v] ++ if s.mmioHook = true ∧ a = 0x00FA#16 then outputAccess s v else []

/-- The push of a return address: the high byte at `sp - 2`, then the low byte at `sp - 1` (20_memory.md R61). -/
def pushReturnAccess (s : State) : List PortEvent :=
  [.memWrite (s.sp - 2#16) (hiByte (s.pc + 2#16)), .memWrite (s.sp - 1#16) (loByte (s.pc + 2#16))]

/-- What an instruction does at the ports after its fetches, in order: the table of 20_memory.md R61, whose last row is
"every other instruction: none", with the character events of R72, R210 and R211. -/
def dataAccesses (s : State) : Instr → List PortEvent
  | .load _ ry => loadAccess s (joinBytes (s.reg ry) (s.reg (ry + 1#4)))
  | .loadz imm => loadAccess s (imm.setWidth 16)
  | .stor rx ry => storeAccess s (joinBytes (s.reg ry) (s.reg (ry + 1#4))) (s.reg rx)
  | .storz imm => storeAccess s (imm.setWidth 16) (s.reg 0#4)
  | .div _ ry => if s.reg ry = 0x00#8 then faultAccesses s else []
  | .call _ => pushReturnAccess s
  | .calll _ _ => pushReturnAccess s
  | .ret => [.memRead s.sp (s.readMem s.sp), .memRead (s.sp + 1#16) (s.readMem (s.sp + 1#16))]
  | .push rx ry => (List.range ((ry - rx).toNat + 1)).map fun k =>
      .memWrite (s.sp - BitVec.ofNat 16 (k + 1)) (s.reg (rx + BitVec.ofNat 4 k))
  | .pop rx ry => (List.range ((ry - rx).toNat + 1)).map fun k =>
      .memRead (s.sp + BitVec.ofNat 16 k) (s.readMem (s.sp + BitVec.ofNat 16 k))
  | .print rx => outputAccess s (s.reg rx)
  | .input _ => inputAccess s
  | _ => []

end Sys2Proof.Claims

open Sys2Proof.Claims

/-! ## Encoding -/

/-- Decode and encode agree on every instruction. For every one of the 54 instructions and every value of its operand
fields, decoding the encoder's word gives the instruction back, through the two bytes and through the table's
numbering of the word. The zero in unused operand bits is the encoder's choice (log 12). [derived: 30_encoding.md
section 4, R100 (its last sentence); notes/assumptions/12] -/
def Obligations.DecoderReadsBackTheEncoder : Prop :=
  ∀ i : Instr, decodeWord (encode i) = .instr i ∧ decodeTableWord 16 (encode i).toNat = some i

/-- A word whose unused bits are zero is the encoding of what it decodes to, and only such a word is. A word that decodes
to an instruction is that instruction's encoding exactly when the operand bits its opcode does not use are zero.
[derived: 30_encoding.md section 4, R98 and R100; notes/assumptions/12] -/
def Obligations.EncoderReadsBackCanonicalWords : Prop :=
  ∀ (iw : BitVec 16) (i : Instr), decodeWord iw = .instr i → (encode i = iw ↔ canonicalWord iw = true)

/-- The 202 opcode values outside the table, and only they, are invalid and raise code 0x01. An opcode byte decodes as
invalid exactly when it is one of the listed values, whatever the operand byte; there are 202 of them; a step that
fetches one takes the fault 0x01: the code in x[0], the pc saved, pc at the vector. [stated: R99] -/
def Obligations.OpcodesOutsideTheTableRaiseInvalidOpcode : Prop :=
  (∀ op arg : Byte, decode op arg = .invalidOpcode op ↔ invalidOpcodeValue op.toNat = true) ∧
  ((List.range 256).filter invalidOpcodeValue).length = 202 ∧
  (∀ s : State, s.halted = false → s.pc.getLsbD 0 = false → invalidOpcodeValue s.fetchOp.toNat = true →
    ∃ t, step s = .next t ∧ t.reg 0#4 = 0x01#8 ∧ t.savedPc = s.pc ∧ t.pc = s.faultVector)

/-- A word decodes to an instruction exactly when it matches that row of the opcode table. A word that matches a row of
the 54-row table (word and mask equal match) decodes to an instruction with the row's mnemonic, and a word that
decodes matches the row of its mnemonic; no word matches two rows. [derived: 30_encoding.md section 4, R103] -/
def Obligations.WordsDecodeByTheirTableRow : Prop :=
  opcodeTable.length = 54 ∧
  (∀ (iw : BitVec 16) (r : OpRow), r ∈ opcodeTable → r.matchesWord iw = true →
    ∃ i, decodeWord iw = .instr i ∧ mnemonicOf i = r.mnemonic) ∧
  (∀ (iw : BitVec 16) (i : Instr), decodeWord iw = .instr i →
    ∃ r ∈ opcodeTable, r.matchesWord iw = true ∧ r.mnemonic = mnemonicOf i) ∧
  (∀ (iw : BitVec 16) (r q : OpRow), r ∈ opcodeTable → q ∈ opcodeTable → r.matchesWord iw = true →
    q.matchesWord iw = true → r = q)

/-- Words the spec prints decode to the instructions it prints them for. Twelve encodings printed in the spec's examples,
one or more from each family, decode to the instructions printed beside them. [derived: 95_test_vectors.md Part B;
40_move_load_store.md to 45_io_halt_invalid.md, the Example lines] -/
def Obligations.SpecWordsDecode : Prop :=
  decode 0x00#8 0xFF#8 = .instr .nop ∧ decode 0x1F#8 0xFF#8 = .instr (.ldi15 0xFF#8) ∧
  decode 0x22#8 0x4F#8 = .instr (.load 4#4 15#4) ∧ decode 0x25#8 0xFA#8 = .instr (.storz 0xFA#8) ∧
  decode 0x30#8 0x13#8 = .instr (.add 1#4 3#4) ∧ decode 0x38#8 0x57#8 = .instr (.div 5#4 7#4) ∧
  decode 0x44#8 0x10#8 = .instr (.shl 1#4) ∧ decode 0x53#8 0x04#8 = .instr (.jnz 0x04#8) ∧
  decode 0x58#8 0xEF#8 = .instr (.calll 14#4 15#4) ∧ decode 0x60#8 0xE1#8 = .instr (.push 14#4 1#4) ∧
  decode 0x70#8 0x3F#8 = .instr (.print 3#4) ∧ decode 0xFF#8 0xFF#8 = .instr .hlt

/-! ## The step and the faults -/

/-- A step runs the instruction that the bytes at pc decode to. When the machine is not halted, pc is even, and the bytes
at pc and pc + 1 decode to an instruction, the step is that instruction's execution at that state, and its result is
Ran. Nothing is added around it. [derived: 60_exceptions.md section 1, R220 steps 3 to 5] -/
def Obligations.StepRunsTheDecodedInstruction : Prop :=
  ∀ (i : Instr) (s : State), s.halted = false → s.pc.getLsbD 0 = false →
    decode (s.readMem s.pc) (s.readMem (s.pc + 1#16)) = .instr i → step s = exec i s ∧ s.stepResult = .ran

/-- A step of a halted machine changes nothing, makes no event and returns DidNotRun. A step of a halted machine, with pc
odd too, leaves every piece of state as it is, makes no access at any port and reports DidNotRun; a machine that is
not halted reports Ran. That the step is a next state equal to the old one is the model's form (log 8). [derived:
60_exceptions.md section 1, R220 step 1; 10_state.md section 6, R40; notes/assumptions/8] -/
def Obligations.HaltedMachineDoesNothing : Prop :=
  (∀ s : State, s.halted = true → step s = .next s ∧ s.stepEvents = [] ∧ s.stepResult = .didNotRun) ∧
  (∀ s : State, s.halted = false → s.stepResult = .ran)

/-- An odd pc at the start of a step takes fault 0x03 with the odd value saved and nothing fetched. A step that starts
with pc odd and not halted, whatever bytes lie at pc, puts 0x03 into x[0], saves the odd pc, sets pc from the vector,
changes nothing else, and makes only the four accesses of fault entry. What fault entry leaves unchanged is the spec's
decision D9 (log 14). [derived: 60_exceptions.md section 2, R223, R226 and R228; notes/assumptions/14] -/
def Obligations.OddPcTakesMisalignedPc : Prop :=
  ∀ s : State, s.halted = false → s.pc.getLsbD 0 = true →
    (∃ t, step s = .next t ∧ FaultTaken 0x03#8 s t) ∧
    s.stepEvents = [.memWrite 0x00FC#16 (hiByte s.pc), .memWrite 0x00FD#16 (loByte s.pc),
      .memRead 0x00FE#16 (s.readMem 0x00FE#16), .memRead 0x00FF#16 (s.readMem 0x00FF#16)]

/-- Taking a fault writes x[0], the saved pc and pc, and nothing else. For each of the three codes and every state, fault
entry puts the code into x[0], pc[15:8] into 0x00FC, pc[7:0] into 0x00FD, and sets pc to mem[0x00FE] ++ mem[0x00FF];
flags, other registers, other cells, halted, ports are unchanged (the spec's decision D9, log 14). [derived:
60_exceptions.md section 2, R221 and R226; notes/assumptions/14] -/
def Obligations.FaultEntryRewritesFourItems : Prop :=
  ∀ (code : FaultCode) (s : State),
    FaultTaken (match code with | .invalidOpcode => 0x01#8 | .divZero => 0x02#8 | .misalignedPc => 0x03#8) s
      (s.takeFault code) ∧
    (s.takeFault code).readMem 0x00FC#16 = hiByte s.pc ∧ (s.takeFault code).readMem 0x00FD#16 = loByte s.pc ∧
    (s.takeFault code).pc = joinBytes (s.readMem 0x00FE#16) (s.readMem 0x00FF#16)

/-- An odd fault vector is a livelock: every further step takes MISALIGNED_PC again. From a state with pc odd, the vector
odd and not halted, after any number of steps from one on: x[0] is 0x03, pc is the vector, the machine is not halted,
the vector is what it was, and from the second step on the saved pc is the vector too. [derived: 60_exceptions.md
section 2, R232] -/
def Obligations.OddVectorRepeatsForEver : Prop :=
  ∀ s : State, s.halted = false → s.pc.getLsbD 0 = true → s.faultVector.getLsbD 0 = true → ∀ k : Nat,
    ∃ t, StepsTo (k + 1) s t ∧ t.reg 0#4 = 0x03#8 ∧ t.pc = s.faultVector ∧ t.faultVector = s.faultVector ∧
      t.halted = false ∧ t.savedPc = if k = 0 then s.pc else s.faultVector

/-- With the default handler in place any fault halts the machine on the second step. When the vector is 0xFFFE and the
cell there holds HLT, a step that meets an odd pc, an invalid opcode or a DIV by zero is followed by one that halts:
pc is 0xFFFE, x[0] the fault's code, the saved pc that of the faulting step. Reset puts the default handler in place.
[derived: 60_exceptions.md section 2, R233; notes/assumptions/14] -/
def Obligations.UnhandledFaultHaltsInTwoSteps : Prop :=
  DefaultHandler State.reset ∧
  (∀ s : State, DefaultHandler s → s.halted = false → s.pc.getLsbD 0 = true →
    ∃ t, StepsTo 2 s t ∧ Ended t ∧ t.pc = 0xFFFE#16 ∧ t.reg 0#4 = 0x03#8 ∧ t.savedPc = s.pc) ∧
  (∀ s : State, DefaultHandler s → AboutToFetchInvalid s →
    ∃ t, StepsTo 2 s t ∧ Ended t ∧ t.pc = 0xFFFE#16 ∧ t.reg 0#4 = 0x01#8 ∧ t.savedPc = s.pc) ∧
  (∀ (s : State) (rx ry : RegIdx), DefaultHandler s → AboutToRun (.div rx ry) s → s.reg ry = 0x00#8 →
    ∃ t, StepsTo 2 s t ∧ Ended t ∧ t.pc = 0xFFFE#16 ∧ t.reg 0#4 = 0x02#8 ∧ t.savedPc = s.pc)

/-- A machine becomes halted only by fetching HLT, and no step clears halted. If a step of a machine that is not halted
ends halted, its pc was even and the opcode fetched was 0xFF; and a halted machine is halted after every step. That
only reset clears it is the spec's decision D24 (log 19). [derived: 45_io_halt_invalid.md R212; 10_state.md section 4,
R32; notes/assumptions/19] -/
def Obligations.OnlyHltHaltsAndNoStepResumes : Prop :=
  (∀ s t : State, step s = .next t → s.halted = false → t.halted = true →
    s.pc.getLsbD 0 = false ∧ s.fetchOp = 0xFF#8) ∧
  (∀ s t : State, step s = .next t → s.halted = true → t.halted = true)

/-- No instruction and no step stops or is refused. Every instruction with every operand, and every step of every state,
gives a next state: faults are taken inside the machine, so that the model's type of faults is empty is its own choice
(log 9). The steps include those of a halted machine: that such a step, whose result the spec calls DidNotRun, is a
next state is the model's own form (log 8). [derived: 60_exceptions.md section 1, R220; 60_exceptions.md section 2,
R226 and R235; 93_implementation_defined.md section 2; notes/assumptions/8 and 9] -/
def Obligations.EveryInstructionAndStepGoesOn : Prop :=
  (∀ (i : Instr) (s : State), ∃ t, exec i s = .next t) ∧ (∀ s : State, ∃ t, step s = .next t)

/-! ## Invariants and rules of the whole machine -/

/-- Every step keeps the canonical form of the memory. If the memory's entries have rising addresses below 65,536 and none
equals what reset leaves in its cell, the same holds after any step. The form is the model's own (log 10). [derived:
20_memory.md section 1, R60; notes/assumptions/10] -/
def Obligations.StepKeepsMemoryCanonical : Prop :=
  ∀ s t : State, Memory.wf s.mem = true → step s = .next t → Memory.wf t.mem = true

/-- The memory right after reset has the canonical form. The invariant of StepKeepsMemoryCanonical holds at reset (the
model's own form, log 10). [derived: 20_memory.md section 1, R60; notes/assumptions/10] -/
def Obligations.ResetMemoryIsCanonical : Prop :=
  Memory.wf State.reset.mem = true ∧ ∀ s : State, Memory.wf s.hostReset.mem = true

/-- No step changes a parameter or an attachment; output is only appended and input only consumed. After any step the
hook, the pop order and the ports' attachment are what they were, the output trace is the old one with bytes appended,
and the pending input is the old list with bytes dropped from its front. The trace and list forms are the model's own
(log 1 to 4). [derived: 10_state.md section 6, R38 and R39; 70_reset_and_hazards.md section 1, R251;
notes/assumptions/1 to 4] -/
def Obligations.StepKeepsSetupAndExtendsTraces : Prop :=
  ∀ s t : State, step s = .next t →
    SetupKept s t ∧ (∃ out, t.charOut = s.charOut ++ out) ∧ (∃ k, t.charIn = s.charIn.drop k)

/-- A step's port events are its fetches and its accesses in order, and account for its memory, output and input. A step
that runs an instruction makes the opcode fetch at pc, the operand fetch at pc + 1 and then the instruction's
accesses, reads and writes, in the order of R61: one read for LOAD and LOADZ, one write for STOR and STORZ, the two
writes of a call, the two reads of RET, the writes of PUSH and the reads of POP one by one, fault entry for DIV by
zero, no memory access for the rest, with the character events of PRINT, INPUT and the hook (a hooked load reads no
memory, a hooked store outputs after its write); a step that fetches an invalid opcode makes the two fetches and then
fault entry. After any step the memory is the memory before it with the write events replayed in order; the output
trace gains the bytes of the output events; the pending input loses one byte for each input request; at most one
character event of each kind is made. The event list, with character events only while a port is attached, is the
model's own form of the interface (log 16); the hooked accesses follow the spec's decision D3 (log 5), the addresses
and bytes of PUSH and POP its decision D21 (log 15); the pending input as a list is the model's form (log 2), and so
is the trace (log 4). [derived: 10_state.md section 6, R36 and R37; 20_memory.md section 1, R61; 20_memory.md section
5, R72; notes/assumptions/2, 4 and 5; notes/assumptions/15 and 16] -/
def Obligations.EventsAccountForTheStep : Prop :=
  (∀ (i : Instr) (s : State), AboutToRun i s → s.stepEvents = fetchAccesses s ++ dataAccesses s i) ∧
  (∀ s : State, AboutToFetchInvalid s → s.stepEvents = fetchAccesses s ++ faultAccesses s) ∧
  (∀ s t : State, step s = .next t →
    t.mem = replayWrites s.stepEvents s.mem ∧ t.charOut = s.charOut ++ outputsOf s.stepEvents ∧
    t.charIn = s.charIn.drop (inputRequests s.stepEvents) ∧
    (outputsOf s.stepEvents).length ≤ 1 ∧ inputRequests s.stepEvents ≤ 1)

/-- With the hook off, INPUT is the only instruction whose effect depends on the pending input. With MMIO_HOOK = false, an
instruction other than INPUT does the same whatever the pending input is, and leaves it alone. The pending input as a
list is the model's own form (log 2). [derived: 45_io_halt_invalid.md R211; notes/assumptions/2] -/
def Obligations.OnlyInputDependsOnTheEnvironment : Prop :=
  ∀ (i : Instr) (s t : State) (inputs : List Byte), s.mmioHook = false → (∀ rx, i ≠ .input rx) → exec i s = .next t →
    exec i { s with charIn := inputs } = .next { t with charIn := inputs }

/-- Flags change only where the table of flag writers says. An instruction that is not in the table of flag writers leaves
all three flags; TEST and INPUT leave C; DIV by zero leaves all three. The unchanged flags rest on the spec's
decisions D9 and D10 (log 14). [derived: 10_state.md section 3, R30; notes/assumptions/14] -/
def Obligations.FlagsChangeOnlyWhereTheTableSays : Prop :=
  ∀ (i : Instr) (s t : State), exec i s = .next t →
    (flagUse i = .none → FlagsKept s t) ∧ (flagUse i = .zn → t.c = s.c) ∧
    (∀ rx ry, i = .div rx ry → s.reg ry = 0x00#8 → FlagsKept s t)

/-- Registers change only where the table of register writers says. Every instruction leaves every register that the table
of register uses does not list as written by it. [derived: 10_state.md section 1, R23] -/
def Obligations.RegistersChangeOnlyWhereTheTableSays : Prop :=
  ∀ (i : Instr) (s t : State), exec i s = .next t → RegsKept (writtenRegs s i) s t

/-! ## Memory, reset and the host -/

/-- A cell reads as what was last written to it and every other cell as before. After a byte is written to an address,
reading that address gives the byte and reading any other address gives what it gave; no address faults. [derived:
20_memory.md sections 4 and 6, R68 and R73 (a)] -/
def Obligations.CellReadsAsLastWritten : Prop :=
  ∀ (s : State) (a : Addr) (v : Byte), (s.writeMem a v).readMem a = v ∧ MemKept [a] s (s.writeMem a v) ∧
    RegsKept [] s (s.writeMem a v)

/-- Reset gives every piece of architectural state its value, whatever the state before. After reset, at construction or
applied by the host to any state: every register 0, pc 0x0200, flags 0, not halted, 0xFF 0xFE at 0x00FE, 0xFF 0xFF at
0xFFFE, and every other cell 0. [stated: R250] -/
def Obligations.ResetGivesTheSpecValues : Prop :=
  ∀ (s t : State), t = State.reset ∨ t = s.hostReset →
    (∀ r, t.reg r = 0x00#8) ∧ t.pc = 0x0200#16 ∧ t.z = false ∧ t.c = false ∧ t.n = false ∧ t.halted = false ∧
    t.readMem 0x00FE#16 = 0xFF#8 ∧ t.readMem 0x00FF#16 = 0xFE#8 ∧
    t.readMem 0xFFFE#16 = 0xFF#8 ∧ t.readMem 0xFFFF#16 = 0xFF#8 ∧
    (∀ a, a ∉ [0x00FE#16, 0x00FF#16, 0xFFFE#16, 0xFFFF#16] → t.readMem a = 0x00#8)

/-- A reset by the host leaves the ports, their traces and the parameters as they are. Reset keeps the ports' attachment,
the bytes already output, the input not yet consumed and both build parameters (the spec's decision D27; the fields
are the model's form, log 1 to 4). [derived: 70_reset_and_hazards.md section 1, R251; notes/assumptions/1 to 4] -/
def Obligations.ResetLeavesTheEnvironment : Prop :=
  ∀ s : State, PortsKept s s.hostReset ∧ SetupKept s s.hostReset

/-- From reset with nothing loaded the machine runs 32,511 NOPs and halts at 0xFFFE on step 32,512. After k steps from
reset, k up to 32,511, only pc has moved, to 0x0200 + 2k; after 32,512 steps the machine is halted with pc 0xFFFE and
all else as at reset. [derived: 70_reset_and_hazards.md section 1, R253] -/
def Obligations.EmptyMachineRunsToTheBackstop : Prop :=
  (∀ k : Nat, k ≤ 32511 → StepsTo k State.reset (State.reset.setPc (BitVec.ofNat 16 (0x0200 + 2 * k)))) ∧
  StepsTo 32512 State.reset (State.reset.setPc 0xFFFE#16).halt

/-- loadProgram copies an image that fits into memory and changes nothing else; another is refused. When S + L is at most
65,536, cell S + k holds byte k of the image for every k, every other cell reads as before, and nothing else changes,
with no character event; otherwise the load is refused. The refusal is the spec's decision D17 (log 7). [derived:
70_reset_and_hazards.md section 3, R257; notes/assumptions/7] -/
def Obligations.LoadProgramCopiesTheImage : Prop :=
  (∀ (s : State) (bytes : List Byte) (start : Nat), start + bytes.length ≤ 65536 →
    ∃ t, s.loadProgram bytes start = .next t ∧
      (∀ k (h : k < bytes.length), t.readMem (BitVec.ofNat 16 (start + k)) = bytes[k]) ∧
      (∀ a : Addr, a.toNat < start ∨ start + bytes.length ≤ a.toNat → t.readMem a = s.readMem a) ∧
      t = { s with mem := t.mem }) ∧
  (∀ (s : State) (bytes : List Byte) (start : Nat), 65536 < start + bytes.length →
    s.loadProgram bytes start = .refused .imageDoesNotFit)

/-- Run takes steps until halted or out of budget and counts those that ran. Run with a budget k answers the state after n
steps and n, where n is at most k, no state before the n-th step was halted, and if n is below k the final state is
halted (the spec's decision D18, log 7). [derived: 70_reset_and_hazards.md section 3, R259; notes/assumptions/7] -/
def Obligations.RunCountsTheStepsThatRan : Prop :=
  ∀ (k : Nat) (s : State), ∃ n t, s.hostRun k = .next (t, n) ∧ n ≤ k ∧ StepsTo n s t ∧
    (n < k → Ended t) ∧ ∀ m u, m < n → StepsTo m s u → u.halted = false

/-! ## Moves, loads and stores -/

/-- NOP only advances pc, whatever its operand byte. 0x00 with any operand byte is NOP; it sets pc to the next instruction
and changes nothing else. That no flag changes is the spec's decision D10 (log 14). [derived: 40_move_load_store.md
R120; notes/assumptions/14] -/
def Obligations.NopOnlyAdvances : Prop :=
  (∀ arg : Byte, decode 0x00#8 arg = .instr .nop) ∧
  ∀ s : State, ∃ t, exec .nop s = .next t ∧ OnlyPc (s.pc + 2#16) s t

/-- LDI0 to LDI15 load an immediate into the register their opcode names. For each n, opcode 0x10 + n is LDIn: register n
takes the operand byte, pc advances, no flag and nothing else changes. [stated: R121] -/
def Obligations.LdiLoadsItsRegister : Prop :=
  ∀ p ∈ [(Instr.ldi0, 0#4), (Instr.ldi1, 1#4), (Instr.ldi2, 2#4), (Instr.ldi3, 3#4), (Instr.ldi4, 4#4),
      (Instr.ldi5, 5#4), (Instr.ldi6, 6#4), (Instr.ldi7, 7#4), (Instr.ldi8, 8#4), (Instr.ldi9, 9#4),
      (Instr.ldi10, 10#4), (Instr.ldi11, 11#4), (Instr.ldi12, 12#4), (Instr.ldi13, 13#4), (Instr.ldi14, 14#4),
      (Instr.ldi15, 15#4)],
    ∀ imm : Byte, decode (0x10#8 + p.2.setWidth 8) imm = .instr (p.1 imm) ∧
      ∀ s : State, ∃ t, exec (p.1 imm) s = .next t ∧ t.reg p.2 = imm ∧ t.pc = s.pc + 2#16 ∧ FlagsKept s t ∧
        Frame [p.2] [] s t ∧ PortsKept s t

/-- MOV copies a register and changes nothing else. Opcode 0x20 is MOV: x[rx] takes x[ry], pc advances, no flag and
nothing else changes. [stated: R122] -/
def Obligations.MovCopiesARegister : Prop :=
  ∀ rx ry : RegIdx, decode 0x20#8 (joinNibbles rx ry) = .instr (.mov rx ry) ∧
    ∀ s : State, ∃ t, exec (.mov rx ry) s = .next t ∧ t.reg rx = s.reg ry ∧ t.pc = s.pc + 2#16 ∧ FlagsKept s t ∧
      Frame [rx] [] s t ∧ PortsKept s t

/-- SWAP exchanges two registers, is self-inverse and does not mind their order. Opcode 0x21 is SWAP: x[rx] and x[ry]
exchange their old values, pc advances, no flag and nothing else changes; two SWAPs restore every register; SWAP ry,
rx has the same effect. [stated: R123] -/
def Obligations.SwapExchangesTwoRegisters : Prop :=
  ∀ rx ry : RegIdx, decode 0x21#8 (joinNibbles rx ry) = .instr (.swap rx ry) ∧
    ∀ s : State, exec (.swap ry rx) s = exec (.swap rx ry) s ∧
      ∃ t u, exec (.swap rx ry) s = .next t ∧ t.reg rx = s.reg ry ∧ t.reg ry = s.reg rx ∧ t.pc = s.pc + 2#16 ∧
        FlagsKept s t ∧ Frame [rx, ry] [] s t ∧ PortsKept s t ∧
        exec (.swap rx ry) t = .next u ∧ RegsKept [] s u

/-- LOAD and LOADZ load a byte from their address, or from the input port where hooked. LOAD takes its address from the
old x[ry] ++ x[ry + 1] and loads x[rx]; LOADZ takes the zero-page address imm and loads x[0]. The byte is the cell's,
or CharIn()'s when the hook is on and the address is 0x00FB. pc advances; no flag, no memory, nothing else changes.
The input list is the model's form (log 2), the hook the spec's decision D3 (log 5). That LOADZ changes no flag is the
spec's decision D10 (log 14). [derived: 40_move_load_store.md R124 and R126; 20_memory.md section 5, R72;
notes/assumptions/2 and 5; notes/assumptions/14] -/
def Obligations.LoadsReadMemoryOrTheHookedPort : Prop :=
  (∀ rx ry : RegIdx, decode 0x22#8 (joinNibbles rx ry) = .instr (.load rx ry) ∧
    ∀ s : State, s.pairAddr ry = joinBytes (s.reg ry) (s.reg (ry + 1#4)) ∧
      ∃ t, exec (.load rx ry) s = .next t ∧ LoadedFrom (s.pairAddr ry) rx s t) ∧
  (∀ imm : Byte, decode 0x24#8 imm = .instr (.loadz imm) ∧
    ∀ s : State, (zeroPageAddr imm).toNat = imm.toNat ∧
      ∃ t, exec (.loadz imm) s = .next t ∧ LoadedFrom (zeroPageAddr imm) 0#4 s t)

/-- STOR and STORZ write one cell, and output the byte where hooked. STOR writes x[rx] to the cell x[ry] ++ x[ry + 1];
STORZ writes x[0] to the zero-page cell imm. When the hook is on, the address is 0x00FA and an output port is
attached, the trace gains the byte. pc advances; no flag, no register, no other cell, nothing else changes. The hook
is the spec's decision D3 (log 5), the trace the model's form (log 4). That STORZ changes no flag is the spec's
decision D10 (log 14). [derived: 40_move_load_store.md R125 and R127; 20_memory.md section 5, R72; notes/assumptions/4
and 5; notes/assumptions/14] -/
def Obligations.StoresWriteTheirCell : Prop :=
  (∀ rx ry : RegIdx, decode 0x23#8 (joinNibbles rx ry) = .instr (.stor rx ry) ∧
    ∀ s : State, s.pairAddr ry = joinBytes (s.reg ry) (s.reg (ry + 1#4)) ∧
      ∃ t, exec (.stor rx ry) s = .next t ∧ StoredTo (s.pairAddr ry) (s.reg rx) s t) ∧
  (∀ imm : Byte, decode 0x25#8 imm = .instr (.storz imm) ∧
    ∀ s : State, (zeroPageAddr imm).toNat = imm.toNat ∧
      ∃ t, exec (.storz imm) s = .next t ∧ StoredTo (zeroPageAddr imm) (s.reg 0#4) s t)

/-! ## Arithmetic -/

/-- ADD and ADC store the sum modulo 256 and set Z, C, N from it. ADD stores x[rx] + x[ry] modulo 256, ADC adds the old C
too; C is whether the exact sum exceeds 255, Z and N are those of the stored byte; pc advances and nothing else
changes. [stated: R140; R141] -/
def Obligations.AddAndAdcSumBytes : Prop :=
  (∀ rx ry : RegIdx, decode 0x30#8 (joinNibbles rx ry) = .instr (.add rx ry) ∧
    ∀ s : State, ∃ t, exec (.add rx ry) s = .next t ∧ SumStored rx ((s.reg rx).toNat + (s.reg ry).toNat) s t) ∧
  (∀ rx ry : RegIdx, decode 0x31#8 (joinNibbles rx ry) = .instr (.adc rx ry) ∧
    ∀ s : State, ∃ t, exec (.adc rx ry) s = .next t ∧
      SumStored rx ((s.reg rx).toNat + (s.reg ry).toNat + s.c.toNat) s t)

/-- SUB and SBC store the difference modulo 256; C is the borrow. SUB stores x[rx] - x[ry] modulo 256, SBC subtracts the
old C too; C is whether the exact difference is negative, Z and N are those of the stored byte; pc advances and
nothing else changes. [stated: R142; R143] -/
def Obligations.SubAndSbcSubtractBytes : Prop :=
  (∀ rx ry : RegIdx, decode 0x32#8 (joinNibbles rx ry) = .instr (.sub rx ry) ∧
    ∀ s : State, ∃ t, exec (.sub rx ry) s = .next t ∧
      DifferenceStored rx (s.reg rx) ((s.reg ry).toNat) s t) ∧
  (∀ rx ry : RegIdx, decode 0x33#8 (joinNibbles rx ry) = .instr (.sbc rx ry) ∧
    ∀ s : State, ∃ t, exec (.sbc rx ry) s = .next t ∧
      DifferenceStored rx (s.reg rx) ((s.reg ry).toNat + s.c.toNat) s t)

/-- INC and DEC add and subtract one and write all three flags. INC stores x[rx] + 1 modulo 256 with C set exactly on the
wrap from 0xFF, so C = Z after it; DEC stores x[rx] - 1 modulo 256 with C set exactly when the old value was 0; the
low operand nibble is ignored; pc advances and nothing else changes. [stated: R144; R145] -/
def Obligations.IncAndDecStepARegister : Prop :=
  (∀ rx u : RegIdx, decode 0x34#8 (joinNibbles rx u) = .instr (.inc rx) ∧
    ∀ s : State, ∃ t, exec (.inc rx) s = .next t ∧ SumStored rx ((s.reg rx).toNat + 1) s t ∧
      t.c = (s.reg rx == 0xFF#8) ∧ t.c = t.z) ∧
  (∀ rx u : RegIdx, decode 0x35#8 (joinNibbles rx u) = .instr (.dec rx) ∧
    ∀ s : State, ∃ t, exec (.dec rx) s = .next t ∧ DifferenceStored rx (s.reg rx) 1 s t ∧
      t.c = (s.reg rx == 0x00#8))

/-- CMP sets the flags of SUB and stores nothing. CMP sets Z when the registers are equal, C when x[rx] is below x[ry], N
to bit 7 of the wrapped difference; pc advances; no register and nothing else changes. [stated: R146] -/
def Obligations.CmpOnlySetsFlags : Prop :=
  ∀ rx ry : RegIdx, decode 0x36#8 (joinNibbles rx ry) = .instr (.cmp rx ry) ∧
    ∀ s : State, ∃ t, exec (.cmp rx ry) s = .next t ∧ t.z = (s.reg rx == s.reg ry) ∧
      t.c = decide ((s.reg rx).toNat < (s.reg ry).toNat) ∧ t.n = (s.reg rx - s.reg ry).getLsbD 7 ∧
      t.pc = s.pc + 2#16 ∧ Frame [] [] s t ∧ PortsKept s t

/-- MUL writes the 16-bit product of the old operands into a register pair. The pair x[rx] ++ x[rx + 1] holds the exact
product of the old x[rx] and x[ry]; Z tests the whole product, C says it exceeds 255, N is bit 7 of its low byte; pc
advances and nothing else changes. [stated: R147] -/
def Obligations.MulWritesTheProductPair : Prop :=
  ∀ rx ry : RegIdx, decode 0x37#8 (joinNibbles rx ry) = .instr (.mul rx ry) ∧
    ∀ s : State, ∃ t, exec (.mul rx ry) s = .next t ∧
      (joinBytes (t.reg rx) (t.reg (rx + 1#4))).toNat = (s.reg rx).toNat * (s.reg ry).toNat ∧
      t.z = decide ((s.reg rx).toNat * (s.reg ry).toNat = 0) ∧
      t.c = decide (255 < (s.reg rx).toNat * (s.reg ry).toNat) ∧
      t.n = ((s.reg rx).toNat * (s.reg ry).toNat).testBit 7 ∧
      t.pc = s.pc + 2#16 ∧ Frame [rx, rx + 1#4] [] s t ∧ PortsKept s t

/-- DIV by a divisor that is not 0 writes quotient and remainder into a register pair. With x[ry] not 0, x[rx] takes the
quotient and x[rx + 1] the remainder of the old operands, Z and N are the quotient's, C is cleared, pc advances and
nothing else changes; quotient times divisor plus remainder is the dividend, and the remainder is below the divisor.
[derived: 41_arithmetic.md R148 (divisor not 0) and R151] -/
def Obligations.DivWritesQuotientAndRemainder : Prop :=
  ∀ rx ry : RegIdx, decode 0x38#8 (joinNibbles rx ry) = .instr (.div rx ry) ∧
    ∀ s : State, s.reg ry ≠ 0x00#8 → ∃ t, exec (.div rx ry) s = .next t ∧
      (t.reg rx).toNat = (s.reg rx).toNat / (s.reg ry).toNat ∧
      (t.reg (rx + 1#4)).toNat = (s.reg rx).toNat % (s.reg ry).toNat ∧
      (t.reg rx).toNat * (s.reg ry).toNat + (t.reg (rx + 1#4)).toNat = (s.reg rx).toNat ∧
      (t.reg (rx + 1#4)).toNat < (s.reg ry).toNat ∧
      FlagsOf (t.reg rx) false t ∧ t.pc = s.pc + 2#16 ∧ Frame [rx, rx + 1#4] [] s t ∧ PortsKept s t

/-- DIV by zero takes fault 0x02 and has no other effect. With x[ry] = 0, DIV puts 0x02 into x[0], saves its own address,
goes to the vector and changes nothing else: no quotient, no remainder, no flag (the unchanged flags are the spec's
decision D9, log 14). [derived: 41_arithmetic.md R148 (divisor 0); 60_exceptions.md section 2, R222;
notes/assumptions/14] -/
def Obligations.DivByZeroTakesDivZero : Prop :=
  ∀ (rx ry : RegIdx) (s : State), s.reg ry = 0x00#8 →
    ∃ t, exec (.div rx ry) s = .next t ∧ FaultTaken 0x02#8 s t

/-- ADD then ADC is 16-bit addition, SUB then SBC is 16-bit subtraction. With four distinct registers holding A and B as
high and low bytes, ADD of the low bytes then ADC of the high bytes leaves (A + B) modulo 65,536 in A's registers with
C the carry out; SUB then SBC leaves (A - B) modulo 65,536 with C set exactly when B exceeds A. [derived:
41_arithmetic.md section Integer arithmetic laws, R150] -/
def Obligations.CarryChainsAreSixteenBitArithmetic : Prop :=
  ∀ (hiA loA hiB loB : RegIdx) (s : State), [hiA, loA, hiB, loB].Nodup →
    (∃ t u, exec (.add loA loB) s = .next t ∧ exec (.adc hiA hiB) t = .next u ∧
      (u.regsTarget hiA loA).toNat = ((s.regsTarget hiA loA).toNat + (s.regsTarget hiB loB).toNat) % 65536 ∧
      u.c = decide ((s.regsTarget hiA loA).toNat + (s.regsTarget hiB loB).toNat ≥ 65536)) ∧
    (∃ t u, exec (.sub loA loB) s = .next t ∧ exec (.sbc hiA hiB) t = .next u ∧
      u.regsTarget hiA loA = s.regsTarget hiA loA - s.regsTarget hiB loB ∧
      u.c = decide ((s.regsTarget hiB loB).toNat > (s.regsTarget hiA loA).toNat))

/-! ## Logic and shifts -/

/-- AND, OR, XOR and NOT store their result, set Z and N from it and clear C. Each stores the bitwise result of the old
operands in x[rx], sets Z and N from it, clears C, advances pc and changes nothing else; NOT ignores its low operand
nibble. [stated: R160; R161; R162; R163] -/
def Obligations.LogicOperationsClearCarry : Prop :=
  (∀ rx ry : RegIdx, decode 0x40#8 (joinNibbles rx ry) = .instr (.and rx ry) ∧
    ∀ s : State, ∃ t, exec (.and rx ry) s = .next t ∧ ResultStored rx (s.reg rx &&& s.reg ry) false s t) ∧
  (∀ rx ry : RegIdx, decode 0x41#8 (joinNibbles rx ry) = .instr (.or rx ry) ∧
    ∀ s : State, ∃ t, exec (.or rx ry) s = .next t ∧ ResultStored rx (s.reg rx ||| s.reg ry) false s t) ∧
  (∀ rx ry : RegIdx, decode 0x42#8 (joinNibbles rx ry) = .instr (.xor rx ry) ∧
    ∀ s : State, ∃ t, exec (.xor rx ry) s = .next t ∧ ResultStored rx (s.reg rx ^^^ s.reg ry) false s t) ∧
  (∀ rx u : RegIdx, decode 0x43#8 (joinNibbles rx u) = .instr (.not rx) ∧
    ∀ s : State, ∃ t, exec (.not rx) s = .next t ∧ ResultStored rx (~~~ (s.reg rx)) false s t)

/-- SHL and SHR rotate the register and C by one bit. SHL: bit 0 takes the old C, every other bit the old bit below it, C
the old bit 7. SHR: bit 7 takes the old C, every other bit the old bit above it, C the old bit 0, and N is the old C.
Z and N are those of the result, pc advances, nothing else changes; the low operand nibble is ignored. [stated: R164;
R165] -/
def Obligations.ShiftsRotateThroughCarry : Prop :=
  (∀ rx u : RegIdx, decode 0x44#8 (joinNibbles rx u) = .instr (.shl rx) ∧
    ∀ s : State, ∃ t, exec (.shl rx) s = .next t ∧ ResultStored rx (t.reg rx) ((s.reg rx).getLsbD 7) s t ∧
      ∀ k, k < 8 → (t.reg rx).getLsbD k = if k = 0 then s.c else (s.reg rx).getLsbD (k - 1)) ∧
  (∀ rx u : RegIdx, decode 0x45#8 (joinNibbles rx u) = .instr (.shr rx) ∧
    ∀ s : State, ∃ t, exec (.shr rx) s = .next t ∧ ResultStored rx (t.reg rx) ((s.reg rx).getLsbD 0) s t ∧
      t.n = s.c ∧ ∀ k, k < 8 → (t.reg rx).getLsbD k = if k = 7 then s.c else (s.reg rx).getLsbD (k + 1))

/-- TEST sets Z and N of the bitwise and, stores nothing and preserves C. Opcode 0x46 is TEST: Z and N are those of x[rx]
and x[ry] anded, C is preserved, pc advances, no register and nothing else changes. [stated: R166] -/
def Obligations.TestPreservesCarryAndRegisters : Prop :=
  ∀ rx ry : RegIdx, decode 0x46#8 (joinNibbles rx ry) = .instr (.test rx ry) ∧
    ∀ s : State, ∃ t, exec (.test rx ry) s = .next t ∧ FlagsOf (s.reg rx &&& s.reg ry) s.c t ∧
      t.pc = s.pc + 2#16 ∧ Frame [] [] s t ∧ PortsKept s t

/-- SHL then SHR, and SHR then SHL, restore the register and C. For every register, value and C, a SHL followed at once by
a SHR of the same register leaves every register and C as they were, and so does a SHR followed by a SHL. [derived:
42_logic_shift.md section Laws of the group, R168] -/
def Obligations.ShiftPairsRestoreRegisterAndCarry : Prop :=
  ∀ (rx : RegIdx) (s : State),
    (∃ t u, exec (.shl rx) s = .next t ∧ exec (.shr rx) t = .next u ∧ RegsKept [] s u ∧ u.c = s.c) ∧
    (∃ t u, exec (.shr rx) s = .next t ∧ exec (.shl rx) t = .next u ∧ RegsKept [] s u ∧ u.c = s.c)

/-- SHL low then SHL high shifts a 16-bit pair left; SHR high then SHR low shifts it right. With two distinct registers
and C = 0, the pair as a 16-bit value is doubled modulo 65,536 with C its old top bit, or halved with C its old bottom
bit. [derived: 42_logic_shift.md section Laws of the group, R169] -/
def Obligations.ShiftChainsAreSixteenBitShifts : Prop :=
  ∀ (hi lo : RegIdx) (s : State), hi ≠ lo → s.c = false →
    (∃ t u, exec (.shl lo) s = .next t ∧ exec (.shl hi) t = .next u ∧
      (u.regsTarget hi lo).toNat = 2 * (s.regsTarget hi lo).toNat % 65536 ∧
      u.c = decide (32768 ≤ (s.regsTarget hi lo).toNat)) ∧
    (∃ t u, exec (.shr hi) s = .next t ∧ exec (.shr lo) t = .next u ∧
      (u.regsTarget hi lo).toNat = (s.regsTarget hi lo).toNat / 2 ∧
      u.c = decide ((s.regsTarget hi lo).toNat % 2 = 1))

/-! ## Control transfer -/

/-- JMP sets pc to pc + 2 plus the signed offset, modulo 65,536. Opcode 0x50 is JMP: pc becomes (pc + 2 + offset) modulo
65,536 with the operand byte read as a two's-complement number; nothing else changes. That no flag changes is the
spec's decision D10 (log 14). [derived: 43_control.md R180 and R181; notes/assumptions/14] -/
def Obligations.JmpGoesToItsRelativeTarget : Prop :=
  ∀ imm : Byte, decode 0x50#8 imm = .instr (.jmp imm) ∧
    ∀ s : State, ((s.relTarget imm).toNat : Int) = ((s.pc.toNat : Int) + 2 + imm.toInt) % 65536 ∧
      ∃ t, exec (.jmp imm) s = .next t ∧ OnlyPc (s.relTarget imm) s t

/-- JMPL sets pc to x[rx] ++ x[ry]. Opcode 0x51 is JMPL: pc becomes the 16-bit value with high byte x[rx] and low byte
x[ry]; nothing else changes. That no flag changes is the spec's decision D10 (log 14). [derived: 43_control.md R182;
notes/assumptions/14] -/
def Obligations.JmplGoesToTheAddressInTwoRegisters : Prop :=
  ∀ rx ry : RegIdx, decode 0x51#8 (joinNibbles rx ry) = .instr (.jmpl rx ry) ∧
    ∀ s : State, ∃ t, exec (.jmpl rx ry) s = .next t ∧ OnlyPc (joinBytes (s.reg rx) (s.reg ry)) s t

/-- JZ, JNZ, JC, JNC and JN branch on their flag and change only pc. Each of the five goes to its relative target when its
condition on Z, C or N holds, and to the next instruction when it does not; nothing else changes. That no flag changes
is the spec's decision D10 (log 14). [derived: 43_control.md R183 to R187; notes/assumptions/14] -/
def Obligations.BranchesFollowTheirFlag : Prop :=
  ∀ (imm : Byte),
    decode 0x52#8 imm = .instr (.jz imm) ∧ decode 0x53#8 imm = .instr (.jnz imm) ∧
    decode 0x54#8 imm = .instr (.jc imm) ∧ decode 0x55#8 imm = .instr (.jnc imm) ∧
    decode 0x56#8 imm = .instr (.jn imm) ∧
    ∀ s : State,
      (∃ t, exec (.jz imm) s = .next t ∧ OnlyPc (if s.z = true then s.relTarget imm else s.pc + 2#16) s t) ∧
      (∃ t, exec (.jnz imm) s = .next t ∧ OnlyPc (if s.z = false then s.relTarget imm else s.pc + 2#16) s t) ∧
      (∃ t, exec (.jc imm) s = .next t ∧ OnlyPc (if s.c = true then s.relTarget imm else s.pc + 2#16) s t) ∧
      (∃ t, exec (.jnc imm) s = .next t ∧ OnlyPc (if s.c = false then s.relTarget imm else s.pc + 2#16) s t) ∧
      (∃ t, exec (.jn imm) s = .next t ∧ OnlyPc (if s.n = true then s.relTarget imm else s.pc + 2#16) s t)

/-- CALL pushes pc + 2 big-endian and jumps relative to itself. Opcode 0x57 is CALL: the stack pointer falls by 2, the
high byte of pc + 2 goes to the new top and the low byte one above, pc becomes the relative target of the CALL's
address; no flag, no other register, no other cell, nothing else changes. That no flag changes is the spec's decision
D10 (log 14). [derived: 43_control.md R188; notes/assumptions/14] -/
def Obligations.CallPushesTheReturnAddressAndJumps : Prop :=
  ∀ imm : Byte, decode 0x57#8 imm = .instr (.call imm) ∧
    ∀ s : State, ∃ t, exec (.call imm) s = .next t ∧ ReturnPushed s t ∧ t.pc = s.relTarget imm

/-- CALLL pushes like CALL, then jumps through two registers read after the push. Opcode 0x58 is CALLL: the push of CALL,
then pc becomes x[rx] ++ x[ry] with both registers read after the stack pointer is written back (the spec's decision
D26, log 15); no flag and nothing else changes. That no flag changes is the spec's decision D10 (log 14). [derived:
43_control.md R189; notes/assumptions/14; notes/assumptions/15] -/
def Obligations.CalllReadsItsTargetAfterThePush : Prop :=
  ∀ rx ry : RegIdx, decode 0x58#8 (joinNibbles rx ry) = .instr (.calll rx ry) ∧
    ∀ s : State, ∃ t, exec (.calll rx ry) s = .next t ∧ ReturnPushed s t ∧
      t.pc = joinBytes (t.reg rx) (t.reg ry)

/-- RET takes pc from the two bytes at the stack pointer and raises it by 2. Opcode 0x59 with any operand byte is RET: pc
becomes the byte at sp as high byte and the byte at sp + 1 as low byte, sp rises by 2 modulo 65,536; no flag, no
memory, nothing else changes. That no flag changes is the spec's decision D10 (log 14). [derived: 43_control.md R190;
notes/assumptions/14] -/
def Obligations.RetPopsTheReturnAddress : Prop :=
  (∀ arg : Byte, decode 0x59#8 arg = .instr .ret) ∧
  ∀ s : State, ∃ t, exec .ret s = .next t ∧
    t.pc = joinBytes (s.readMem (joinBytes (s.reg 14#4) (s.reg 15#4)))
      (s.readMem (joinBytes (s.reg 14#4) (s.reg 15#4) + 1#16)) ∧
    joinBytes (t.reg 14#4) (t.reg 15#4) = joinBytes (s.reg 14#4) (s.reg 15#4) + 2#16 ∧
    FlagsKept s t ∧ Frame [14#4, 15#4] [] s t ∧ PortsKept s t

/-- CALL or CALLL followed by RET returns to the next instruction with every register restored. After a CALL or a CALLL
and then a RET, pc is the call's next instruction, every register and flag is as before, and only the two bytes below
the old stack pointer may differ. That no flag changes rests on the contracts of CALL, CALLL and RET with the spec's
decision D10 (log 14). [derived: 43_control.md section Properties of control transfer, R193; 43_control.md R188 to
R190; notes/assumptions/14] -/
def Obligations.CallThenRetReturns : Prop :=
  ∀ (i : Instr) (s : State), (∃ imm, i = .call imm) ∨ (∃ rx ry, i = .calll rx ry) →
    ∃ t u, exec i s = .next t ∧ exec .ret t = .next u ∧ u.pc = s.pc + 2#16 ∧ FlagsKept s u ∧
      Frame [] [s.sp - 2#16, s.sp - 1#16] s u ∧ PortsKept s u

/-! ## PUSH and POP -/

/-- The range rx..ry runs from rx to ry with wrap and never repeats a register. The range has ((ry - rx) mod 16) + 1
registers, from 1 to 16, starts at rx, goes on with the register after, ends at ry, and holds no register twice.
[stated: R202] -/
def Obligations.RegisterRangeWrapsFromFirstToLast : Prop :=
  ∀ rx ry : RegIdx,
    (regRange rx ry).length = (ry - rx).toNat + 1 ∧ 1 ≤ (regRange rx ry).length ∧ (regRange rx ry).length ≤ 16 ∧
    (regRange rx ry).head? = some rx ∧ (regRange rx ry).getLast? = some ry ∧ (regRange rx ry).Nodup ∧
    (regRange rx ry).tail = (regRange rx ry).dropLast.map (fun r => r + 1#4)

/-- PUSH stores the registers of its range one byte lower each and moves the stack pointer. The k-th register of the range
(from 0) goes to the cell sp - (k + 1), with the old value also for registers 14 and 15; sp falls by the number of
registers; pc advances; no flag, no other register, no other cell, nothing else changes. That sp is read once and
written once is the spec's decision D21 (log 15), and that no flag changes its decision D10 (log 14). [derived:
44_stack.md R200 and R202; notes/assumptions/14; notes/assumptions/15] -/
def Obligations.PushStoresTheRangeDownwards : Prop :=
  ∀ rx ry : RegIdx, decode 0x60#8 (joinNibbles rx ry) = .instr (.push rx ry) ∧
    ∀ s : State, ∃ t, exec (.push rx ry) s = .next t ∧
      (∀ k, k ≤ (ry - rx).toNat →
        t.readMem (s.sp - BitVec.ofNat 16 (k + 1)) = s.reg (rx + BitVec.ofNat 4 k)) ∧
      t.sp = s.sp - BitVec.ofNat 16 ((ry - rx).toNat + 1) ∧ t.pc = s.pc + 2#16 ∧ FlagsKept s t ∧
      Frame [14#4, 15#4] (belowSp s ((ry - rx).toNat + 1)) s t ∧ PortsKept s t

/-- POP loads the bytes from the stack pointer up into its range in the order of POP_ORDER. With n registers in the range,
byte k from the old sp goes to the register rx + k (ascending) or ry - k (descending), except that registers 14 and 15
end as the new stack pointer, the old one plus n; pc advances; no flag, no memory, no other register, nothing else
changes. The order is the parameter POP_ORDER (D6, log 1); D21 as for PUSH (log 15); that no flag changes is the
spec's decision D10 (log 14). [derived: 44_stack.md R201 and R202; notes/assumptions/1; notes/assumptions/14;
notes/assumptions/15] -/
def Obligations.PopLoadsTheRangeUpwards : Prop :=
  ∀ rx ry : RegIdx, decode 0x61#8 (joinNibbles rx ry) = .instr (.pop rx ry) ∧
    ∀ s : State, ∃ t, exec (.pop rx ry) s = .next t ∧
      (s.popOrder = .ascending → ∀ k, k ≤ (ry - rx).toNat → rx + BitVec.ofNat 4 k ∉ [14#4, 15#4] →
        t.reg (rx + BitVec.ofNat 4 k) = s.readMem (s.sp + BitVec.ofNat 16 k)) ∧
      (s.popOrder = .descending → ∀ k, k ≤ (ry - rx).toNat → ry - BitVec.ofNat 4 k ∉ [14#4, 15#4] →
        t.reg (ry - BitVec.ofNat 4 k) = s.readMem (s.sp + BitVec.ofNat 16 k)) ∧
      t.sp = s.sp + BitVec.ofNat 16 ((ry - rx).toNat + 1) ∧ t.pc = s.pc + 2#16 ∧ FlagsKept s t ∧
      Frame (regRange rx ry ++ [14#4, 15#4]) [] s t ∧ PortsKept s t

/-- PUSH then POP of one range: the stack pointer returns, and the registers reversed or restored by POP_ORDER. After PUSH
rx, ry and then POP rx, ry: sp is restored, only the n bytes below the old sp may differ in memory, registers outside
the range are unchanged; under ascending the register at position k of the range, 14 and 15 apart, holds the old value
of the one at position n - 1 - k; under descending every register is unchanged; a range of one register is restored
under either order. The order is the parameter POP_ORDER (D6, log 1); sp read and written once is the spec's decision
D21 (log 15), and that no flag changes its decision D10 (log 14). [derived: 44_stack.md R203 (a) to (c) and the one-
register part of (d); 90_conflicts.md C1; notes/assumptions/1; notes/assumptions/14; notes/assumptions/15] -/
def Obligations.PushThenPopObeysTheStackLaws : Prop :=
  ∀ (rx ry : RegIdx) (s : State), ∃ t u, exec (.push rx ry) s = .next t ∧ exec (.pop rx ry) t = .next u ∧
    u.sp = s.sp ∧ FlagsKept s u ∧ PortsKept s u ∧
    Frame (regRange rx ry) (belowSp s ((ry - rx).toNat + 1)) s u ∧
    (s.popOrder = .ascending → ∀ k, k ≤ (ry - rx).toNat → rx + BitVec.ofNat 4 k ∉ [14#4, 15#4] →
      u.reg (rx + BitVec.ofNat 4 k) = s.reg (ry - BitVec.ofNat 4 k)) ∧
    (s.popOrder = .descending → RegsKept [] s u) ∧ (rx = ry → RegsKept [] s u)

/-! ## Input, output and HLT -/

/-- PRINT gives x[rx] to the output port and only advances pc. Opcode 0x70 is PRINT, low nibble ignored: with an output
port attached the trace gains x[rx] once, without one nothing is output; pc advances; no flag, register, memory or
anything else changes. The trace is the model's form, recorded while attached (D13, log 4). [derived:
45_io_halt_invalid.md R210; notes/assumptions/4] -/
def Obligations.PrintOutputsARegister : Prop :=
  ∀ rx u : RegIdx, decode 0x70#8 (joinNibbles rx u) = .instr (.print rx) ∧
    ∀ s : State, ∃ t, exec (.print rx) s = .next t ∧
      t.charOut = (if s.charOutAttached = true then s.charOut ++ [s.reg rx] else s.charOut) ∧
      t.charIn = s.charIn ∧ t.pc = s.pc + 2#16 ∧ FlagsKept s t ∧ Frame [] [] s t

/-- INPUT loads the next input byte, or 0, sets Z and N and preserves C. Opcode 0x71 is INPUT, low nibble ignored: x[rx]
takes the next pending byte, which is consumed, or 0 when no port is attached or nothing is pending; Z and N are the
byte's, C is preserved, pc advances, nothing else changes. The pending input as a list is the model's form of CHAR_IN
(D12, log 2). [derived: 45_io_halt_invalid.md R211; 10_state.md section 6, R39; notes/assumptions/2] -/
def Obligations.InputTakesAByteWithoutWaiting : Prop :=
  ∀ rx u : RegIdx, decode 0x71#8 (joinNibbles rx u) = .instr (.input rx) ∧
    ∀ s : State, ∃ t, exec (.input rx) s = .next t ∧
      (s.charInAttached = false → t.reg rx = 0x00#8 ∧ t.charIn = s.charIn) ∧
      (s.charInAttached = true → s.charIn = [] → t.reg rx = 0x00#8 ∧ t.charIn = []) ∧
      (∀ b rest, s.charInAttached = true → s.charIn = b :: rest → t.reg rx = b ∧ t.charIn = rest) ∧
      FlagsOf (t.reg rx) s.c t ∧ t.charOut = s.charOut ∧ t.pc = s.pc + 2#16 ∧ Frame [rx] [] s t

/-- HLT halts with pc unchanged, and every later step does nothing. Opcode 0xFF with any operand byte is HLT: halted
becomes true and nothing else changes, pc included; a step of the resulting state gives that same state. That only
reset clears halted is the spec's decision D24 (log 19) and not part of this statement. That no flag changes is the
spec's decision D10 (log 14); that a step of the halted state is a next state equal to it is the model's own form (log
8). [derived: 45_io_halt_invalid.md R212; notes/assumptions/8; notes/assumptions/14] -/
def Obligations.HltHaltsInPlace : Prop :=
  (∀ arg : Byte, decode 0xFF#8 arg = .instr .hlt) ∧
  ∀ s : State, ∃ t, exec .hlt s = .next t ∧ t.halted = true ∧ t.pc = s.pc ∧ FlagsKept s t ∧ RegsKept [] s t ∧
    MemKept [] s t ∧ PortsKept s t ∧ SetupKept s t ∧ ∀ k, StepsTo k t t

/-! ## The invalid opcodes -/

/-- A step that fetches an invalid opcode takes fault 0x01 and changes nothing else. A step of a machine that is not
halted, with pc even, that fetches one of the 202 invalid opcodes, whatever the operand byte, puts 0x01 into x[0],
saves the offending instruction's address, sets pc from the vector, and changes no flag, no other register, no other
cell and nothing else. That nothing else changes is the spec's decision D9 (log 14). [derived: 45_io_halt_invalid.md
R213; 60_exceptions.md section 2, R226; notes/assumptions/14] -/
def Obligations.InvalidOpcodeStepTakesOnlyTheFault : Prop :=
  ∀ s : State, AboutToFetchInvalid s → ∃ t, step s = .next t ∧ FaultTaken 0x01#8 s t
end

