-- ==== Sys2Proof/Laws/State.lean ====
section
/-! SUPPORT. One lemma per field of State and update of it, so that no proof unfolds a record update. -/

namespace Sys2Proof.Machine

variable (s : State)

/-! ### `setReg` -/

@[simp] theorem State.setReg_pc (r : RegIdx) (v : Byte) : (s.setReg r v).pc = s.pc := rfl
@[simp] theorem State.setReg_z (r : RegIdx) (v : Byte) : (s.setReg r v).z = s.z := rfl
@[simp] theorem State.setReg_c (r : RegIdx) (v : Byte) : (s.setReg r v).c = s.c := rfl
@[simp] theorem State.setReg_n (r : RegIdx) (v : Byte) : (s.setReg r v).n = s.n := rfl
@[simp] theorem State.setReg_halted (r : RegIdx) (v : Byte) : (s.setReg r v).halted = s.halted := rfl
@[simp] theorem State.setReg_mem (r : RegIdx) (v : Byte) : (s.setReg r v).mem = s.mem := rfl
@[simp] theorem State.setReg_charOut (r : RegIdx) (v : Byte) : (s.setReg r v).charOut = s.charOut := rfl
@[simp] theorem State.setReg_charIn (r : RegIdx) (v : Byte) : (s.setReg r v).charIn = s.charIn := rfl
@[simp] theorem State.setReg_charOutAttached (r : RegIdx) (v : Byte) : (s.setReg r v).charOutAttached = s.charOutAttached := rfl
@[simp] theorem State.setReg_charInAttached (r : RegIdx) (v : Byte) : (s.setReg r v).charInAttached = s.charInAttached := rfl
@[simp] theorem State.setReg_mmioHook (r : RegIdx) (v : Byte) : (s.setReg r v).mmioHook = s.mmioHook := rfl
@[simp] theorem State.setReg_popOrder (r : RegIdx) (v : Byte) : (s.setReg r v).popOrder = s.popOrder := rfl
@[simp] theorem State.setReg_readMem (r : RegIdx) (v : Byte) (k : Addr) : (s.setReg r v).readMem k = s.readMem k := rfl
@[simp] theorem State.setReg_nextPc (r : RegIdx) (v : Byte) : (s.setReg r v).nextPc = s.nextPc := rfl

/-! ### `setFlags` -/

@[simp] theorem State.setFlags_regs (z c n : Bool) : (s.setFlags z c n).regs = s.regs := rfl
@[simp] theorem State.setFlags_pc (z c n : Bool) : (s.setFlags z c n).pc = s.pc := rfl
@[simp] theorem State.setFlags_z (z c n : Bool) : (s.setFlags z c n).z = z := rfl
@[simp] theorem State.setFlags_c (z c n : Bool) : (s.setFlags z c n).c = c := rfl
@[simp] theorem State.setFlags_n (z c n : Bool) : (s.setFlags z c n).n = n := rfl
@[simp] theorem State.setFlags_halted (z c n : Bool) : (s.setFlags z c n).halted = s.halted := rfl
@[simp] theorem State.setFlags_mem (z c n : Bool) : (s.setFlags z c n).mem = s.mem := rfl
@[simp] theorem State.setFlags_charOut (z c n : Bool) : (s.setFlags z c n).charOut = s.charOut := rfl
@[simp] theorem State.setFlags_charIn (z c n : Bool) : (s.setFlags z c n).charIn = s.charIn := rfl
@[simp] theorem State.setFlags_charOutAttached (z c n : Bool) : (s.setFlags z c n).charOutAttached = s.charOutAttached := rfl
@[simp] theorem State.setFlags_charInAttached (z c n : Bool) : (s.setFlags z c n).charInAttached = s.charInAttached := rfl
@[simp] theorem State.setFlags_mmioHook (z c n : Bool) : (s.setFlags z c n).mmioHook = s.mmioHook := rfl
@[simp] theorem State.setFlags_popOrder (z c n : Bool) : (s.setFlags z c n).popOrder = s.popOrder := rfl
@[simp] theorem State.setFlags_reg (z c n : Bool) (q : RegIdx) : (s.setFlags z c n).reg q = s.reg q := rfl
@[simp] theorem State.setFlags_sp (z c n : Bool) : (s.setFlags z c n).sp = s.sp := rfl
@[simp] theorem State.setFlags_readMem (z c n : Bool) (k : Addr) : (s.setFlags z c n).readMem k = s.readMem k := rfl
@[simp] theorem State.setFlags_nextPc (z c n : Bool) : (s.setFlags z c n).nextPc = s.nextPc := rfl

/-! ### `setPc` -/

@[simp] theorem State.setPc_regs (v : Addr) : (s.setPc v).regs = s.regs := rfl
@[simp] theorem State.setPc_pc (v : Addr) : (s.setPc v).pc = v := rfl
@[simp] theorem State.setPc_z (v : Addr) : (s.setPc v).z = s.z := rfl
@[simp] theorem State.setPc_c (v : Addr) : (s.setPc v).c = s.c := rfl
@[simp] theorem State.setPc_n (v : Addr) : (s.setPc v).n = s.n := rfl
@[simp] theorem State.setPc_halted (v : Addr) : (s.setPc v).halted = s.halted := rfl
@[simp] theorem State.setPc_mem (v : Addr) : (s.setPc v).mem = s.mem := rfl
@[simp] theorem State.setPc_charOut (v : Addr) : (s.setPc v).charOut = s.charOut := rfl
@[simp] theorem State.setPc_charIn (v : Addr) : (s.setPc v).charIn = s.charIn := rfl
@[simp] theorem State.setPc_charOutAttached (v : Addr) : (s.setPc v).charOutAttached = s.charOutAttached := rfl
@[simp] theorem State.setPc_charInAttached (v : Addr) : (s.setPc v).charInAttached = s.charInAttached := rfl
@[simp] theorem State.setPc_mmioHook (v : Addr) : (s.setPc v).mmioHook = s.mmioHook := rfl
@[simp] theorem State.setPc_popOrder (v : Addr) : (s.setPc v).popOrder = s.popOrder := rfl
@[simp] theorem State.setPc_reg (v : Addr) (q : RegIdx) : (s.setPc v).reg q = s.reg q := rfl
@[simp] theorem State.setPc_sp (v : Addr) : (s.setPc v).sp = s.sp := rfl
@[simp] theorem State.setPc_readMem (v : Addr) (k : Addr) : (s.setPc v).readMem k = s.readMem k := rfl

/-! ### `advance` -/

@[simp] theorem State.advance_regs : (s.advance).regs = s.regs := rfl
@[simp] theorem State.advance_pc : (s.advance).pc = s.nextPc := rfl
@[simp] theorem State.advance_z : (s.advance).z = s.z := rfl
@[simp] theorem State.advance_c : (s.advance).c = s.c := rfl
@[simp] theorem State.advance_n : (s.advance).n = s.n := rfl
@[simp] theorem State.advance_halted : (s.advance).halted = s.halted := rfl
@[simp] theorem State.advance_mem : (s.advance).mem = s.mem := rfl
@[simp] theorem State.advance_charOut : (s.advance).charOut = s.charOut := rfl
@[simp] theorem State.advance_charIn : (s.advance).charIn = s.charIn := rfl
@[simp] theorem State.advance_charOutAttached : (s.advance).charOutAttached = s.charOutAttached := rfl
@[simp] theorem State.advance_charInAttached : (s.advance).charInAttached = s.charInAttached := rfl
@[simp] theorem State.advance_mmioHook : (s.advance).mmioHook = s.mmioHook := rfl
@[simp] theorem State.advance_popOrder : (s.advance).popOrder = s.popOrder := rfl
@[simp] theorem State.advance_reg (q : RegIdx) : (s.advance).reg q = s.reg q := rfl
@[simp] theorem State.advance_sp : (s.advance).sp = s.sp := rfl
@[simp] theorem State.advance_readMem (k : Addr) : (s.advance).readMem k = s.readMem k := rfl

/-! ### `halt` -/

@[simp] theorem State.halt_regs : (s.halt).regs = s.regs := rfl
@[simp] theorem State.halt_pc : (s.halt).pc = s.pc := rfl
@[simp] theorem State.halt_z : (s.halt).z = s.z := rfl
@[simp] theorem State.halt_c : (s.halt).c = s.c := rfl
@[simp] theorem State.halt_n : (s.halt).n = s.n := rfl
@[simp] theorem State.halt_halted : (s.halt).halted = true := rfl
@[simp] theorem State.halt_mem : (s.halt).mem = s.mem := rfl
@[simp] theorem State.halt_charOut : (s.halt).charOut = s.charOut := rfl
@[simp] theorem State.halt_charIn : (s.halt).charIn = s.charIn := rfl
@[simp] theorem State.halt_charOutAttached : (s.halt).charOutAttached = s.charOutAttached := rfl
@[simp] theorem State.halt_charInAttached : (s.halt).charInAttached = s.charInAttached := rfl
@[simp] theorem State.halt_mmioHook : (s.halt).mmioHook = s.mmioHook := rfl
@[simp] theorem State.halt_popOrder : (s.halt).popOrder = s.popOrder := rfl
@[simp] theorem State.halt_reg (q : RegIdx) : (s.halt).reg q = s.reg q := rfl
@[simp] theorem State.halt_sp : (s.halt).sp = s.sp := rfl
@[simp] theorem State.halt_readMem (k : Addr) : (s.halt).readMem k = s.readMem k := rfl
@[simp] theorem State.halt_nextPc : (s.halt).nextPc = s.nextPc := rfl

/-! ### `writeMem` -/

@[simp] theorem State.writeMem_regs (a : Addr) (v : Byte) : (s.writeMem a v).regs = s.regs := rfl
@[simp] theorem State.writeMem_pc (a : Addr) (v : Byte) : (s.writeMem a v).pc = s.pc := rfl
@[simp] theorem State.writeMem_z (a : Addr) (v : Byte) : (s.writeMem a v).z = s.z := rfl
@[simp] theorem State.writeMem_c (a : Addr) (v : Byte) : (s.writeMem a v).c = s.c := rfl
@[simp] theorem State.writeMem_n (a : Addr) (v : Byte) : (s.writeMem a v).n = s.n := rfl
@[simp] theorem State.writeMem_halted (a : Addr) (v : Byte) : (s.writeMem a v).halted = s.halted := rfl
@[simp] theorem State.writeMem_mem (a : Addr) (v : Byte) : (s.writeMem a v).mem = Memory.write s.mem a.toNat v := rfl
@[simp] theorem State.writeMem_charOut (a : Addr) (v : Byte) : (s.writeMem a v).charOut = s.charOut := rfl
@[simp] theorem State.writeMem_charIn (a : Addr) (v : Byte) : (s.writeMem a v).charIn = s.charIn := rfl
@[simp] theorem State.writeMem_charOutAttached (a : Addr) (v : Byte) : (s.writeMem a v).charOutAttached = s.charOutAttached := rfl
@[simp] theorem State.writeMem_charInAttached (a : Addr) (v : Byte) : (s.writeMem a v).charInAttached = s.charInAttached := rfl
@[simp] theorem State.writeMem_mmioHook (a : Addr) (v : Byte) : (s.writeMem a v).mmioHook = s.mmioHook := rfl
@[simp] theorem State.writeMem_popOrder (a : Addr) (v : Byte) : (s.writeMem a v).popOrder = s.popOrder := rfl
@[simp] theorem State.writeMem_reg (a : Addr) (v : Byte) (q : RegIdx) : (s.writeMem a v).reg q = s.reg q := rfl
@[simp] theorem State.writeMem_sp (a : Addr) (v : Byte) : (s.writeMem a v).sp = s.sp := rfl
@[simp] theorem State.writeMem_nextPc (a : Addr) (v : Byte) : (s.writeMem a v).nextPc = s.nextPc := rfl

/-! ### `readyToFetch` -/

@[simp] theorem State.readyToFetch_regs : (s.readyToFetch).regs = s.regs := rfl
@[simp] theorem State.readyToFetch_pc : (s.readyToFetch).pc = s.pc &&& 0xFFFE#16 := rfl
@[simp] theorem State.readyToFetch_z : (s.readyToFetch).z = s.z := rfl
@[simp] theorem State.readyToFetch_c : (s.readyToFetch).c = s.c := rfl
@[simp] theorem State.readyToFetch_n : (s.readyToFetch).n = s.n := rfl
@[simp] theorem State.readyToFetch_halted : (s.readyToFetch).halted = false := rfl
@[simp] theorem State.readyToFetch_mem : (s.readyToFetch).mem = s.mem := rfl
@[simp] theorem State.readyToFetch_charOut : (s.readyToFetch).charOut = s.charOut := rfl
@[simp] theorem State.readyToFetch_charIn : (s.readyToFetch).charIn = s.charIn := rfl
@[simp] theorem State.readyToFetch_charOutAttached : (s.readyToFetch).charOutAttached = s.charOutAttached := rfl
@[simp] theorem State.readyToFetch_charInAttached : (s.readyToFetch).charInAttached = s.charInAttached := rfl
@[simp] theorem State.readyToFetch_mmioHook : (s.readyToFetch).mmioHook = s.mmioHook := rfl
@[simp] theorem State.readyToFetch_popOrder : (s.readyToFetch).popOrder = s.popOrder := rfl
@[simp] theorem State.readyToFetch_reg (q : RegIdx) : (s.readyToFetch).reg q = s.reg q := rfl
@[simp] theorem State.readyToFetch_sp : (s.readyToFetch).sp = s.sp := rfl
@[simp] theorem State.readyToFetch_readMem (k : Addr) : (s.readyToFetch).readMem k = s.readMem k := rfl

/-! ### `setSp` -/

@[simp] theorem State.setSp_pc (v : Addr) : (s.setSp v).pc = s.pc := rfl
@[simp] theorem State.setSp_z (v : Addr) : (s.setSp v).z = s.z := rfl
@[simp] theorem State.setSp_c (v : Addr) : (s.setSp v).c = s.c := rfl
@[simp] theorem State.setSp_n (v : Addr) : (s.setSp v).n = s.n := rfl
@[simp] theorem State.setSp_halted (v : Addr) : (s.setSp v).halted = s.halted := rfl
@[simp] theorem State.setSp_mem (v : Addr) : (s.setSp v).mem = s.mem := rfl
@[simp] theorem State.setSp_charOut (v : Addr) : (s.setSp v).charOut = s.charOut := rfl
@[simp] theorem State.setSp_charIn (v : Addr) : (s.setSp v).charIn = s.charIn := rfl
@[simp] theorem State.setSp_charOutAttached (v : Addr) : (s.setSp v).charOutAttached = s.charOutAttached := rfl
@[simp] theorem State.setSp_charInAttached (v : Addr) : (s.setSp v).charInAttached = s.charInAttached := rfl
@[simp] theorem State.setSp_mmioHook (v : Addr) : (s.setSp v).mmioHook = s.mmioHook := rfl
@[simp] theorem State.setSp_popOrder (v : Addr) : (s.setSp v).popOrder = s.popOrder := rfl
@[simp] theorem State.setSp_readMem (v : Addr) (k : Addr) : (s.setSp v).readMem k = s.readMem k := rfl
@[simp] theorem State.setSp_nextPc (v : Addr) : (s.setSp v).nextPc = s.nextPc := rfl

/-! ### `setZN` -/

@[simp] theorem State.setZN_regs (v : Byte) : (s.setZN v).regs = s.regs := rfl
@[simp] theorem State.setZN_pc (v : Byte) : (s.setZN v).pc = s.pc := rfl
@[simp] theorem State.setZN_z (v : Byte) : (s.setZN v).z = isZero v := rfl
@[simp] theorem State.setZN_c (v : Byte) : (s.setZN v).c = s.c := rfl
@[simp] theorem State.setZN_n (v : Byte) : (s.setZN v).n = isNegative v := rfl
@[simp] theorem State.setZN_halted (v : Byte) : (s.setZN v).halted = s.halted := rfl
@[simp] theorem State.setZN_mem (v : Byte) : (s.setZN v).mem = s.mem := rfl
@[simp] theorem State.setZN_charOut (v : Byte) : (s.setZN v).charOut = s.charOut := rfl
@[simp] theorem State.setZN_charIn (v : Byte) : (s.setZN v).charIn = s.charIn := rfl
@[simp] theorem State.setZN_charOutAttached (v : Byte) : (s.setZN v).charOutAttached = s.charOutAttached := rfl
@[simp] theorem State.setZN_charInAttached (v : Byte) : (s.setZN v).charInAttached = s.charInAttached := rfl
@[simp] theorem State.setZN_mmioHook (v : Byte) : (s.setZN v).mmioHook = s.mmioHook := rfl
@[simp] theorem State.setZN_popOrder (v : Byte) : (s.setZN v).popOrder = s.popOrder := rfl
@[simp] theorem State.setZN_reg (v : Byte) (q : RegIdx) : (s.setZN v).reg q = s.reg q := rfl
@[simp] theorem State.setZN_sp (v : Byte) : (s.setZN v).sp = s.sp := rfl
@[simp] theorem State.setZN_readMem (v : Byte) (k : Addr) : (s.setZN v).readMem k = s.readMem k := rfl
@[simp] theorem State.setZN_nextPc (v : Byte) : (s.setZN v).nextPc = s.nextPc := rfl

/-! ### `setZCN` -/

@[simp] theorem State.setZCN_regs (r : AluResult) : (s.setZCN r).regs = s.regs := rfl
@[simp] theorem State.setZCN_pc (r : AluResult) : (s.setZCN r).pc = s.pc := rfl
@[simp] theorem State.setZCN_z (r : AluResult) : (s.setZCN r).z = isZero r.value := rfl
@[simp] theorem State.setZCN_c (r : AluResult) : (s.setZCN r).c = r.carry := rfl
@[simp] theorem State.setZCN_n (r : AluResult) : (s.setZCN r).n = isNegative r.value := rfl
@[simp] theorem State.setZCN_halted (r : AluResult) : (s.setZCN r).halted = s.halted := rfl
@[simp] theorem State.setZCN_mem (r : AluResult) : (s.setZCN r).mem = s.mem := rfl
@[simp] theorem State.setZCN_charOut (r : AluResult) : (s.setZCN r).charOut = s.charOut := rfl
@[simp] theorem State.setZCN_charIn (r : AluResult) : (s.setZCN r).charIn = s.charIn := rfl
@[simp] theorem State.setZCN_charOutAttached (r : AluResult) : (s.setZCN r).charOutAttached = s.charOutAttached := rfl
@[simp] theorem State.setZCN_charInAttached (r : AluResult) : (s.setZCN r).charInAttached = s.charInAttached := rfl
@[simp] theorem State.setZCN_mmioHook (r : AluResult) : (s.setZCN r).mmioHook = s.mmioHook := rfl
@[simp] theorem State.setZCN_popOrder (r : AluResult) : (s.setZCN r).popOrder = s.popOrder := rfl
@[simp] theorem State.setZCN_reg (r : AluResult) (q : RegIdx) : (s.setZCN r).reg q = s.reg q := rfl
@[simp] theorem State.setZCN_sp (r : AluResult) : (s.setZCN r).sp = s.sp := rfl
@[simp] theorem State.setZCN_readMem (r : AluResult) (k : Addr) : (s.setZCN r).readMem k = s.readMem k := rfl
@[simp] theorem State.setZCN_nextPc (r : AluResult) : (s.setZCN r).nextPc = s.nextPc := rfl

/-! ### `setMulFlags` -/

@[simp] theorem State.setMulFlags_regs (p : Addr) : (s.setMulFlags p).regs = s.regs := rfl
@[simp] theorem State.setMulFlags_pc (p : Addr) : (s.setMulFlags p).pc = s.pc := rfl
@[simp] theorem State.setMulFlags_z (p : Addr) : (s.setMulFlags p).z = (p == 0#16) := rfl
@[simp] theorem State.setMulFlags_c (p : Addr) : (s.setMulFlags p).c = decide (p.toNat > 255) := rfl
@[simp] theorem State.setMulFlags_n (p : Addr) : (s.setMulFlags p).n = p.getLsbD 7 := rfl
@[simp] theorem State.setMulFlags_halted (p : Addr) : (s.setMulFlags p).halted = s.halted := rfl
@[simp] theorem State.setMulFlags_mem (p : Addr) : (s.setMulFlags p).mem = s.mem := rfl
@[simp] theorem State.setMulFlags_charOut (p : Addr) : (s.setMulFlags p).charOut = s.charOut := rfl
@[simp] theorem State.setMulFlags_charIn (p : Addr) : (s.setMulFlags p).charIn = s.charIn := rfl
@[simp] theorem State.setMulFlags_charOutAttached (p : Addr) : (s.setMulFlags p).charOutAttached = s.charOutAttached := rfl
@[simp] theorem State.setMulFlags_charInAttached (p : Addr) : (s.setMulFlags p).charInAttached = s.charInAttached := rfl
@[simp] theorem State.setMulFlags_mmioHook (p : Addr) : (s.setMulFlags p).mmioHook = s.mmioHook := rfl
@[simp] theorem State.setMulFlags_popOrder (p : Addr) : (s.setMulFlags p).popOrder = s.popOrder := rfl
@[simp] theorem State.setMulFlags_reg (p : Addr) (q : RegIdx) : (s.setMulFlags p).reg q = s.reg q := rfl
@[simp] theorem State.setMulFlags_sp (p : Addr) : (s.setMulFlags p).sp = s.sp := rfl
@[simp] theorem State.setMulFlags_readMem (p : Addr) (k : Addr) : (s.setMulFlags p).readMem k = s.readMem k := rfl
@[simp] theorem State.setMulFlags_nextPc (p : Addr) : (s.setMulFlags p).nextPc = s.nextPc := rfl

/-! ### `branchIf` -/

@[simp] theorem State.branchIf_regs (b : Bool) (imm : Byte) : (s.branchIf b imm).regs = s.regs := rfl
@[simp] theorem State.branchIf_pc (b : Bool) (imm : Byte) : (s.branchIf b imm).pc = (if b then s.relTarget imm else s.nextPc) := rfl
@[simp] theorem State.branchIf_z (b : Bool) (imm : Byte) : (s.branchIf b imm).z = s.z := rfl
@[simp] theorem State.branchIf_c (b : Bool) (imm : Byte) : (s.branchIf b imm).c = s.c := rfl
@[simp] theorem State.branchIf_n (b : Bool) (imm : Byte) : (s.branchIf b imm).n = s.n := rfl
@[simp] theorem State.branchIf_halted (b : Bool) (imm : Byte) : (s.branchIf b imm).halted = s.halted := rfl
@[simp] theorem State.branchIf_mem (b : Bool) (imm : Byte) : (s.branchIf b imm).mem = s.mem := rfl
@[simp] theorem State.branchIf_charOut (b : Bool) (imm : Byte) : (s.branchIf b imm).charOut = s.charOut := rfl
@[simp] theorem State.branchIf_charIn (b : Bool) (imm : Byte) : (s.branchIf b imm).charIn = s.charIn := rfl
@[simp] theorem State.branchIf_charOutAttached (b : Bool) (imm : Byte) : (s.branchIf b imm).charOutAttached = s.charOutAttached := rfl
@[simp] theorem State.branchIf_charInAttached (b : Bool) (imm : Byte) : (s.branchIf b imm).charInAttached = s.charInAttached := rfl
@[simp] theorem State.branchIf_mmioHook (b : Bool) (imm : Byte) : (s.branchIf b imm).mmioHook = s.mmioHook := rfl
@[simp] theorem State.branchIf_popOrder (b : Bool) (imm : Byte) : (s.branchIf b imm).popOrder = s.popOrder := rfl
@[simp] theorem State.branchIf_reg (b : Bool) (imm : Byte) (q : RegIdx) : (s.branchIf b imm).reg q = s.reg q := rfl
@[simp] theorem State.branchIf_sp (b : Bool) (imm : Byte) : (s.branchIf b imm).sp = s.sp := rfl
@[simp] theorem State.branchIf_readMem (b : Bool) (imm : Byte) (k : Addr) : (s.branchIf b imm).readMem k = s.readMem k := rfl

/-! ### `loadImmediate` -/

@[simp] theorem State.loadImmediate_pc (r : RegIdx) (v : Byte) : (s.loadImmediate r v).pc = s.nextPc := rfl
@[simp] theorem State.loadImmediate_z (r : RegIdx) (v : Byte) : (s.loadImmediate r v).z = s.z := rfl
@[simp] theorem State.loadImmediate_c (r : RegIdx) (v : Byte) : (s.loadImmediate r v).c = s.c := rfl
@[simp] theorem State.loadImmediate_n (r : RegIdx) (v : Byte) : (s.loadImmediate r v).n = s.n := rfl
@[simp] theorem State.loadImmediate_halted (r : RegIdx) (v : Byte) : (s.loadImmediate r v).halted = s.halted := rfl
@[simp] theorem State.loadImmediate_mem (r : RegIdx) (v : Byte) : (s.loadImmediate r v).mem = s.mem := rfl
@[simp] theorem State.loadImmediate_charOut (r : RegIdx) (v : Byte) : (s.loadImmediate r v).charOut = s.charOut := rfl
@[simp] theorem State.loadImmediate_charIn (r : RegIdx) (v : Byte) : (s.loadImmediate r v).charIn = s.charIn := rfl
@[simp] theorem State.loadImmediate_charOutAttached (r : RegIdx) (v : Byte) : (s.loadImmediate r v).charOutAttached = s.charOutAttached := rfl
@[simp] theorem State.loadImmediate_charInAttached (r : RegIdx) (v : Byte) : (s.loadImmediate r v).charInAttached = s.charInAttached := rfl
@[simp] theorem State.loadImmediate_mmioHook (r : RegIdx) (v : Byte) : (s.loadImmediate r v).mmioHook = s.mmioHook := rfl
@[simp] theorem State.loadImmediate_popOrder (r : RegIdx) (v : Byte) : (s.loadImmediate r v).popOrder = s.popOrder := rfl
@[simp] theorem State.loadImmediate_readMem (r : RegIdx) (v : Byte) (k : Addr) : (s.loadImmediate r v).readMem k = s.readMem k := rfl

/-! ### `finishAlu` -/

@[simp] theorem State.finishAlu_pc (r : RegIdx) (v : AluResult) : (s.finishAlu r v).pc = s.nextPc := rfl
@[simp] theorem State.finishAlu_z (r : RegIdx) (v : AluResult) : (s.finishAlu r v).z = isZero v.value := rfl
@[simp] theorem State.finishAlu_c (r : RegIdx) (v : AluResult) : (s.finishAlu r v).c = v.carry := rfl
@[simp] theorem State.finishAlu_n (r : RegIdx) (v : AluResult) : (s.finishAlu r v).n = isNegative v.value := rfl
@[simp] theorem State.finishAlu_halted (r : RegIdx) (v : AluResult) : (s.finishAlu r v).halted = s.halted := rfl
@[simp] theorem State.finishAlu_mem (r : RegIdx) (v : AluResult) : (s.finishAlu r v).mem = s.mem := rfl
@[simp] theorem State.finishAlu_charOut (r : RegIdx) (v : AluResult) : (s.finishAlu r v).charOut = s.charOut := rfl
@[simp] theorem State.finishAlu_charIn (r : RegIdx) (v : AluResult) : (s.finishAlu r v).charIn = s.charIn := rfl
@[simp] theorem State.finishAlu_charOutAttached (r : RegIdx) (v : AluResult) : (s.finishAlu r v).charOutAttached = s.charOutAttached := rfl
@[simp] theorem State.finishAlu_charInAttached (r : RegIdx) (v : AluResult) : (s.finishAlu r v).charInAttached = s.charInAttached := rfl
@[simp] theorem State.finishAlu_mmioHook (r : RegIdx) (v : AluResult) : (s.finishAlu r v).mmioHook = s.mmioHook := rfl
@[simp] theorem State.finishAlu_popOrder (r : RegIdx) (v : AluResult) : (s.finishAlu r v).popOrder = s.popOrder := rfl
@[simp] theorem State.finishAlu_readMem (r : RegIdx) (v : AluResult) (k : Addr) : (s.finishAlu r v).readMem k = s.readMem k := rfl

/-! ### `finishCompare` -/

@[simp] theorem State.finishCompare_regs (r : AluResult) : (s.finishCompare r).regs = s.regs := rfl
@[simp] theorem State.finishCompare_pc (r : AluResult) : (s.finishCompare r).pc = s.nextPc := rfl
@[simp] theorem State.finishCompare_z (r : AluResult) : (s.finishCompare r).z = isZero r.value := rfl
@[simp] theorem State.finishCompare_c (r : AluResult) : (s.finishCompare r).c = r.carry := rfl
@[simp] theorem State.finishCompare_n (r : AluResult) : (s.finishCompare r).n = isNegative r.value := rfl
@[simp] theorem State.finishCompare_halted (r : AluResult) : (s.finishCompare r).halted = s.halted := rfl
@[simp] theorem State.finishCompare_mem (r : AluResult) : (s.finishCompare r).mem = s.mem := rfl
@[simp] theorem State.finishCompare_charOut (r : AluResult) : (s.finishCompare r).charOut = s.charOut := rfl
@[simp] theorem State.finishCompare_charIn (r : AluResult) : (s.finishCompare r).charIn = s.charIn := rfl
@[simp] theorem State.finishCompare_charOutAttached (r : AluResult) : (s.finishCompare r).charOutAttached = s.charOutAttached := rfl
@[simp] theorem State.finishCompare_charInAttached (r : AluResult) : (s.finishCompare r).charInAttached = s.charInAttached := rfl
@[simp] theorem State.finishCompare_mmioHook (r : AluResult) : (s.finishCompare r).mmioHook = s.mmioHook := rfl
@[simp] theorem State.finishCompare_popOrder (r : AluResult) : (s.finishCompare r).popOrder = s.popOrder := rfl
@[simp] theorem State.finishCompare_reg (r : AluResult) (q : RegIdx) : (s.finishCompare r).reg q = s.reg q := rfl
@[simp] theorem State.finishCompare_sp (r : AluResult) : (s.finishCompare r).sp = s.sp := rfl
@[simp] theorem State.finishCompare_readMem (r : AluResult) (k : Addr) : (s.finishCompare r).readMem k = s.readMem k := rfl

/-! ### `divide` -/

@[simp] theorem State.divide_pc (rx ry : RegIdx) : (s.divide rx ry).pc = s.nextPc := rfl
@[simp] theorem State.divide_halted (rx ry : RegIdx) : (s.divide rx ry).halted = s.halted := rfl
@[simp] theorem State.divide_mem (rx ry : RegIdx) : (s.divide rx ry).mem = s.mem := rfl
@[simp] theorem State.divide_charOut (rx ry : RegIdx) : (s.divide rx ry).charOut = s.charOut := rfl
@[simp] theorem State.divide_charIn (rx ry : RegIdx) : (s.divide rx ry).charIn = s.charIn := rfl
@[simp] theorem State.divide_charOutAttached (rx ry : RegIdx) : (s.divide rx ry).charOutAttached = s.charOutAttached := rfl
@[simp] theorem State.divide_charInAttached (rx ry : RegIdx) : (s.divide rx ry).charInAttached = s.charInAttached := rfl
@[simp] theorem State.divide_mmioHook (rx ry : RegIdx) : (s.divide rx ry).mmioHook = s.mmioHook := rfl
@[simp] theorem State.divide_popOrder (rx ry : RegIdx) : (s.divide rx ry).popOrder = s.popOrder := rfl
@[simp] theorem State.divide_readMem (rx ry : RegIdx) (k : Addr) : (s.divide rx ry).readMem k = s.readMem k := rfl

/-! ### `pushReturn` -/

@[simp] theorem State.pushReturn_pc : (s.pushReturn).pc = s.pc := rfl
@[simp] theorem State.pushReturn_z : (s.pushReturn).z = s.z := rfl
@[simp] theorem State.pushReturn_c : (s.pushReturn).c = s.c := rfl
@[simp] theorem State.pushReturn_n : (s.pushReturn).n = s.n := rfl
@[simp] theorem State.pushReturn_halted : (s.pushReturn).halted = s.halted := rfl
@[simp] theorem State.pushReturn_charOut : (s.pushReturn).charOut = s.charOut := rfl
@[simp] theorem State.pushReturn_charIn : (s.pushReturn).charIn = s.charIn := rfl
@[simp] theorem State.pushReturn_charOutAttached : (s.pushReturn).charOutAttached = s.charOutAttached := rfl
@[simp] theorem State.pushReturn_charInAttached : (s.pushReturn).charInAttached = s.charInAttached := rfl
@[simp] theorem State.pushReturn_mmioHook : (s.pushReturn).mmioHook = s.mmioHook := rfl
@[simp] theorem State.pushReturn_popOrder : (s.pushReturn).popOrder = s.popOrder := rfl
@[simp] theorem State.pushReturn_nextPc : (s.pushReturn).nextPc = s.nextPc := rfl

/-! ### `popReturn` -/

@[simp] theorem State.popReturn_z : (s.popReturn).z = s.z := rfl
@[simp] theorem State.popReturn_c : (s.popReturn).c = s.c := rfl
@[simp] theorem State.popReturn_n : (s.popReturn).n = s.n := rfl
@[simp] theorem State.popReturn_halted : (s.popReturn).halted = s.halted := rfl
@[simp] theorem State.popReturn_mem : (s.popReturn).mem = s.mem := rfl
@[simp] theorem State.popReturn_charOut : (s.popReturn).charOut = s.charOut := rfl
@[simp] theorem State.popReturn_charIn : (s.popReturn).charIn = s.charIn := rfl
@[simp] theorem State.popReturn_charOutAttached : (s.popReturn).charOutAttached = s.charOutAttached := rfl
@[simp] theorem State.popReturn_charInAttached : (s.popReturn).charInAttached = s.charInAttached := rfl
@[simp] theorem State.popReturn_mmioHook : (s.popReturn).mmioHook = s.mmioHook := rfl
@[simp] theorem State.popReturn_popOrder : (s.popReturn).popOrder = s.popOrder := rfl
@[simp] theorem State.popReturn_readMem (k : Addr) : (s.popReturn).readMem k = s.readMem k := rfl

/-! ### `takeFault` -/

@[simp] theorem State.takeFault_z (code : FaultCode) : (s.takeFault code).z = s.z := rfl
@[simp] theorem State.takeFault_c (code : FaultCode) : (s.takeFault code).c = s.c := rfl
@[simp] theorem State.takeFault_n (code : FaultCode) : (s.takeFault code).n = s.n := rfl
@[simp] theorem State.takeFault_halted (code : FaultCode) : (s.takeFault code).halted = s.halted := rfl
@[simp] theorem State.takeFault_charOut (code : FaultCode) : (s.takeFault code).charOut = s.charOut := rfl
@[simp] theorem State.takeFault_charIn (code : FaultCode) : (s.takeFault code).charIn = s.charIn := rfl
@[simp] theorem State.takeFault_charOutAttached (code : FaultCode) : (s.takeFault code).charOutAttached = s.charOutAttached := rfl
@[simp] theorem State.takeFault_charInAttached (code : FaultCode) : (s.takeFault code).charInAttached = s.charInAttached := rfl
@[simp] theorem State.takeFault_mmioHook (code : FaultCode) : (s.takeFault code).mmioHook = s.mmioHook := rfl
@[simp] theorem State.takeFault_popOrder (code : FaultCode) : (s.takeFault code).popOrder = s.popOrder := rfl

/-! ### `placeWord` -/

@[simp] theorem State.placeWord_regs (a : Addr) (iw : BitVec 16) : (s.placeWord a iw).regs = s.regs := rfl
@[simp] theorem State.placeWord_pc (a : Addr) (iw : BitVec 16) : (s.placeWord a iw).pc = s.pc := rfl
@[simp] theorem State.placeWord_z (a : Addr) (iw : BitVec 16) : (s.placeWord a iw).z = s.z := rfl
@[simp] theorem State.placeWord_c (a : Addr) (iw : BitVec 16) : (s.placeWord a iw).c = s.c := rfl
@[simp] theorem State.placeWord_n (a : Addr) (iw : BitVec 16) : (s.placeWord a iw).n = s.n := rfl
@[simp] theorem State.placeWord_halted (a : Addr) (iw : BitVec 16) : (s.placeWord a iw).halted = s.halted := rfl
@[simp] theorem State.placeWord_charOut (a : Addr) (iw : BitVec 16) : (s.placeWord a iw).charOut = s.charOut := rfl
@[simp] theorem State.placeWord_charIn (a : Addr) (iw : BitVec 16) : (s.placeWord a iw).charIn = s.charIn := rfl
@[simp] theorem State.placeWord_charOutAttached (a : Addr) (iw : BitVec 16) : (s.placeWord a iw).charOutAttached = s.charOutAttached := rfl
@[simp] theorem State.placeWord_charInAttached (a : Addr) (iw : BitVec 16) : (s.placeWord a iw).charInAttached = s.charInAttached := rfl
@[simp] theorem State.placeWord_mmioHook (a : Addr) (iw : BitVec 16) : (s.placeWord a iw).mmioHook = s.mmioHook := rfl
@[simp] theorem State.placeWord_popOrder (a : Addr) (iw : BitVec 16) : (s.placeWord a iw).popOrder = s.popOrder := rfl
@[simp] theorem State.placeWord_reg (a : Addr) (iw : BitVec 16) (q : RegIdx) : (s.placeWord a iw).reg q = s.reg q := rfl
@[simp] theorem State.placeWord_sp (a : Addr) (iw : BitVec 16) : (s.placeWord a iw).sp = s.sp := rfl
@[simp] theorem State.placeWord_nextPc (a : Addr) (iw : BitVec 16) : (s.placeWord a iw).nextPc = s.nextPc := rfl

/-! ### `putChar` -/

@[simp] theorem State.putChar_regs (v : Byte) : (s.putChar v).regs = s.regs := by unfold State.putChar; split <;> rfl
@[simp] theorem State.putChar_pc (v : Byte) : (s.putChar v).pc = s.pc := by unfold State.putChar; split <;> rfl
@[simp] theorem State.putChar_z (v : Byte) : (s.putChar v).z = s.z := by unfold State.putChar; split <;> rfl
@[simp] theorem State.putChar_c (v : Byte) : (s.putChar v).c = s.c := by unfold State.putChar; split <;> rfl
@[simp] theorem State.putChar_n (v : Byte) : (s.putChar v).n = s.n := by unfold State.putChar; split <;> rfl
@[simp] theorem State.putChar_halted (v : Byte) : (s.putChar v).halted = s.halted := by unfold State.putChar; split <;> rfl
@[simp] theorem State.putChar_mem (v : Byte) : (s.putChar v).mem = s.mem := by unfold State.putChar; split <;> rfl
@[simp] theorem State.putChar_charIn (v : Byte) : (s.putChar v).charIn = s.charIn := by unfold State.putChar; split <;> rfl
@[simp] theorem State.putChar_charOutAttached (v : Byte) : (s.putChar v).charOutAttached = s.charOutAttached := by unfold State.putChar; split <;> rfl
@[simp] theorem State.putChar_charInAttached (v : Byte) : (s.putChar v).charInAttached = s.charInAttached := by unfold State.putChar; split <;> rfl
@[simp] theorem State.putChar_mmioHook (v : Byte) : (s.putChar v).mmioHook = s.mmioHook := by unfold State.putChar; split <;> rfl
@[simp] theorem State.putChar_popOrder (v : Byte) : (s.putChar v).popOrder = s.popOrder := by unfold State.putChar; split <;> rfl
@[simp] theorem State.putChar_reg (v : Byte) (q : RegIdx) : (s.putChar v).reg q = s.reg q := by simp [State.reg]
@[simp] theorem State.putChar_sp (v : Byte) : (s.putChar v).sp = s.sp := by simp [State.sp]
@[simp] theorem State.putChar_readMem (v : Byte) (k : Addr) : (s.putChar v).readMem k = s.readMem k := by simp [State.readMem]
@[simp] theorem State.putChar_nextPc (v : Byte) : (s.putChar v).nextPc = s.nextPc := by simp [State.nextPc]

/-! ### `takeChar` -/

@[simp] theorem State.takeChar_regs : (s.takeChar).regs = s.regs := by unfold State.takeChar; split <;> rfl
@[simp] theorem State.takeChar_pc : (s.takeChar).pc = s.pc := by unfold State.takeChar; split <;> rfl
@[simp] theorem State.takeChar_z : (s.takeChar).z = s.z := by unfold State.takeChar; split <;> rfl
@[simp] theorem State.takeChar_c : (s.takeChar).c = s.c := by unfold State.takeChar; split <;> rfl
@[simp] theorem State.takeChar_n : (s.takeChar).n = s.n := by unfold State.takeChar; split <;> rfl
@[simp] theorem State.takeChar_halted : (s.takeChar).halted = s.halted := by unfold State.takeChar; split <;> rfl
@[simp] theorem State.takeChar_mem : (s.takeChar).mem = s.mem := by unfold State.takeChar; split <;> rfl
@[simp] theorem State.takeChar_charOut : (s.takeChar).charOut = s.charOut := by unfold State.takeChar; split <;> rfl
@[simp] theorem State.takeChar_charOutAttached : (s.takeChar).charOutAttached = s.charOutAttached := by unfold State.takeChar; split <;> rfl
@[simp] theorem State.takeChar_charInAttached : (s.takeChar).charInAttached = s.charInAttached := by unfold State.takeChar; split <;> rfl
@[simp] theorem State.takeChar_mmioHook : (s.takeChar).mmioHook = s.mmioHook := by unfold State.takeChar; split <;> rfl
@[simp] theorem State.takeChar_popOrder : (s.takeChar).popOrder = s.popOrder := by unfold State.takeChar; split <;> rfl
@[simp] theorem State.takeChar_reg (q : RegIdx) : (s.takeChar).reg q = s.reg q := by simp [State.reg]
@[simp] theorem State.takeChar_sp : (s.takeChar).sp = s.sp := by simp [State.sp]
@[simp] theorem State.takeChar_readMem (k : Addr) : (s.takeChar).readMem k = s.readMem k := by simp [State.readMem]
@[simp] theorem State.takeChar_nextPc : (s.takeChar).nextPc = s.nextPc := by simp [State.nextPc]

/-! ### `afterLoad` -/

@[simp] theorem State.afterLoad_regs (a : Addr) : (s.afterLoad a).regs = s.regs := by unfold State.afterLoad; split <;> simp
@[simp] theorem State.afterLoad_pc (a : Addr) : (s.afterLoad a).pc = s.pc := by unfold State.afterLoad; split <;> simp
@[simp] theorem State.afterLoad_z (a : Addr) : (s.afterLoad a).z = s.z := by unfold State.afterLoad; split <;> simp
@[simp] theorem State.afterLoad_c (a : Addr) : (s.afterLoad a).c = s.c := by unfold State.afterLoad; split <;> simp
@[simp] theorem State.afterLoad_n (a : Addr) : (s.afterLoad a).n = s.n := by unfold State.afterLoad; split <;> simp
@[simp] theorem State.afterLoad_halted (a : Addr) : (s.afterLoad a).halted = s.halted := by unfold State.afterLoad; split <;> simp
@[simp] theorem State.afterLoad_mem (a : Addr) : (s.afterLoad a).mem = s.mem := by unfold State.afterLoad; split <;> simp
@[simp] theorem State.afterLoad_charOut (a : Addr) : (s.afterLoad a).charOut = s.charOut := by unfold State.afterLoad; split <;> simp
@[simp] theorem State.afterLoad_charOutAttached (a : Addr) : (s.afterLoad a).charOutAttached = s.charOutAttached := by unfold State.afterLoad; split <;> simp
@[simp] theorem State.afterLoad_charInAttached (a : Addr) : (s.afterLoad a).charInAttached = s.charInAttached := by unfold State.afterLoad; split <;> simp
@[simp] theorem State.afterLoad_mmioHook (a : Addr) : (s.afterLoad a).mmioHook = s.mmioHook := by unfold State.afterLoad; split <;> simp
@[simp] theorem State.afterLoad_popOrder (a : Addr) : (s.afterLoad a).popOrder = s.popOrder := by unfold State.afterLoad; split <;> simp
@[simp] theorem State.afterLoad_reg (a : Addr) (q : RegIdx) : (s.afterLoad a).reg q = s.reg q := by simp [State.reg]
@[simp] theorem State.afterLoad_sp (a : Addr) : (s.afterLoad a).sp = s.sp := by simp [State.sp]
@[simp] theorem State.afterLoad_readMem (a : Addr) (k : Addr) : (s.afterLoad a).readMem k = s.readMem k := by simp [State.readMem]
@[simp] theorem State.afterLoad_nextPc (a : Addr) : (s.afterLoad a).nextPc = s.nextPc := by simp [State.nextPc]

/-! ### `storeByte` -/

@[simp] theorem State.storeByte_regs (a : Addr) (v : Byte) : (s.storeByte a v).regs = s.regs := by unfold State.storeByte; split <;> simp
@[simp] theorem State.storeByte_pc (a : Addr) (v : Byte) : (s.storeByte a v).pc = s.pc := by unfold State.storeByte; split <;> simp
@[simp] theorem State.storeByte_z (a : Addr) (v : Byte) : (s.storeByte a v).z = s.z := by unfold State.storeByte; split <;> simp
@[simp] theorem State.storeByte_c (a : Addr) (v : Byte) : (s.storeByte a v).c = s.c := by unfold State.storeByte; split <;> simp
@[simp] theorem State.storeByte_n (a : Addr) (v : Byte) : (s.storeByte a v).n = s.n := by unfold State.storeByte; split <;> simp
@[simp] theorem State.storeByte_halted (a : Addr) (v : Byte) : (s.storeByte a v).halted = s.halted := by unfold State.storeByte; split <;> simp
@[simp] theorem State.storeByte_charIn (a : Addr) (v : Byte) : (s.storeByte a v).charIn = s.charIn := by unfold State.storeByte; split <;> simp
@[simp] theorem State.storeByte_charOutAttached (a : Addr) (v : Byte) : (s.storeByte a v).charOutAttached = s.charOutAttached := by unfold State.storeByte; split <;> simp
@[simp] theorem State.storeByte_charInAttached (a : Addr) (v : Byte) : (s.storeByte a v).charInAttached = s.charInAttached := by unfold State.storeByte; split <;> simp
@[simp] theorem State.storeByte_mmioHook (a : Addr) (v : Byte) : (s.storeByte a v).mmioHook = s.mmioHook := by unfold State.storeByte; split <;> simp
@[simp] theorem State.storeByte_popOrder (a : Addr) (v : Byte) : (s.storeByte a v).popOrder = s.popOrder := by unfold State.storeByte; split <;> simp
@[simp] theorem State.storeByte_reg (a : Addr) (v : Byte) (q : RegIdx) : (s.storeByte a v).reg q = s.reg q := by simp [State.reg]
@[simp] theorem State.storeByte_sp (a : Addr) (v : Byte) : (s.storeByte a v).sp = s.sp := by simp [State.sp]
@[simp] theorem State.storeByte_nextPc (a : Addr) (v : Byte) : (s.storeByte a v).nextPc = s.nextPc := by simp [State.nextPc]

/-- The trace after `CharOut(v)` (10_state.md R38). -/
@[simp] theorem State.putChar_charOut (v : Byte) :
    (s.putChar v).charOut = if s.charOutAttached then s.charOut ++ [v] else s.charOut := by
  unfold State.putChar; split <;> rfl

/-- The pending input after `CharIn()` (10_state.md R39). -/
@[simp] theorem State.takeChar_charIn :
    s.takeChar.charIn = if s.charInAttached then s.charIn.tail else s.charIn := by
  unfold State.takeChar; split <;> rfl

end Sys2Proof.Machine
end

