-- ==== Sys2Proof/Laws/Memory.lean ====
section
/-! SUPPORT. Joining and splitting bytes; reading after a write; every memory operation keeps the canonical form. -/

namespace Sys2Proof.Machine

/-! ### Bytes and nibbles -/

@[simp] theorem hiByte_joinBytes (h l : Byte) : hiByte (joinBytes h l) = h :=
  BitVec.extractLsb'_append_eq_left

@[simp] theorem loByte_joinBytes (h l : Byte) : loByte (joinBytes h l) = l :=
  BitVec.extractLsb'_append_eq_right

theorem getLsbD_joinBytes (h l : Byte) (i : Nat) :
    (joinBytes h l).getLsbD i = if i < 8 then l.getLsbD i else h.getLsbD (i - 8) :=
  (BitVec.getLsbD_append (x := h) (y := l)).trans (by by_cases hi : i < 8 <;> simp [hi])

/-- The number that two joined bytes are (00_scope.md R8). -/
theorem toNat_joinBytes (h l : Byte) : (joinBytes h l).toNat = h.toNat * 256 + l.toNat := by
  rw [show (joinBytes h l).toNat = _ from BitVec.toNat_append h l, ← Nat.shiftLeft_add_eq_or_of_lt l.isLt,
    Nat.shiftLeft_eq]

@[simp] theorem joinBytes_hiByte_loByte (a : Addr) : joinBytes (hiByte a) (loByte a) = a := by
  apply BitVec.eq_of_getLsbD_eq
  intro i hi
  rw [getLsbD_joinBytes]
  split
  · rename_i h; simp [loByte, h]
  · rename_i h
    have : i - 8 < 8 := by omega
    simp [hiByte, this, show 8 + (i - 8) = i by omega]

@[simp] theorem hiNibble_joinNibbles (x y : RegIdx) : hiNibble (joinNibbles x y) = x :=
  BitVec.extractLsb'_append_eq_left

@[simp] theorem loNibble_joinNibbles (x y : RegIdx) : loNibble (joinNibbles x y) = y :=
  BitVec.extractLsb'_append_eq_right

theorem getLsbD_joinNibbles (x y : RegIdx) (i : Nat) :
    (joinNibbles x y).getLsbD i = if i < 4 then y.getLsbD i else x.getLsbD (i - 4) :=
  (BitVec.getLsbD_append (x := x) (y := y)).trans (by by_cases hi : i < 4 <;> simp [hi])

@[simp] theorem joinNibbles_hiNibble_loNibble (b : Byte) : joinNibbles (hiNibble b) (loNibble b) = b := by
  apply BitVec.eq_of_getLsbD_eq
  intro i hi
  rw [getLsbD_joinNibbles]
  split
  · rename_i h; simp [loNibble, h]
  · rename_i h
    have : i - 4 < 4 := by omega
    simp [hiNibble, this, show 4 + (i - 4) = i by omega]

/-! ### Reading after a write (20_memory.md R73) -/

theorem Memory.read_erase (m : Memory) (a k : Nat) :
    Memory.read (Memory.erase m a) k = if k = a then resetByte k else Memory.read m k := by
  induction m with
  | nil => simp [Memory.erase, Memory.read]
  | cons e m ih =>
    obtain ⟨j, w⟩ := e
    simp only [Memory.erase, List.filter_cons] at ih ⊢
    by_cases hj : j = a
    · subst hj; simp only [ne_eq, not_true_eq_false, decide_false, Bool.false_eq_true, if_false, ih, Memory.read]
      split <;> rfl
    · simp only [ne_eq, hj, not_false_eq_true, decide_true, if_true, Memory.read, ih]
      by_cases hk : k = j
      · subst hk; simp [hj]
      · simp [hk]

theorem Memory.read_insert (m : Memory) (a : Nat) (v : Byte) (k : Nat) (h : ∀ e ∈ m, e.1 ≠ a) :
    Memory.read (Memory.insert m a v) k = if k = a then v else Memory.read m k := by
  induction m with
  | nil => simp [Memory.insert, Memory.read]
  | cons e m ih =>
    obtain ⟨j, w⟩ := e
    have hj : j ≠ a := h (j, w) (by simp)
    have ih := ih fun e he => h e (by simp [he])
    simp only [Memory.insert]
    split
    · simp [Memory.read]
    · simp only [Memory.read, ih]
      by_cases hk : k = j
      · subst hk; simp [hj]
      · simp [hk]

/-- A cell reads as what was last written to it, every other cell as before: for any list of entries. -/
theorem Memory.read_write (m : Memory) (a : Nat) (v : Byte) (k : Nat) :
    Memory.read (Memory.write m a v) k = if k = a then v else Memory.read m k := by
  unfold Memory.write
  split
  · rename_i h; rw [Memory.read_erase]; split
    · rename_i hk; rw [hk, h]
    · rfl
  · rw [Memory.read_insert _ _ _ _ (by simp [Memory.erase]), Memory.read_erase]
    split <;> rfl

@[simp] theorem State.readMem_writeMem (s : State) (a : Addr) (v : Byte) (k : Addr) :
    (s.writeMem a v).readMem k = if k = a then v else s.readMem k := by
  simp [State.readMem, Memory.read_write, BitVec.toNat_inj]

/-! ### The canonical form -/

theorem Memory.wfFrom_mono {lo lo' : Nat} {m : Memory} (h : Memory.wfFrom lo m = true) (hle : lo' ≤ lo) :
    Memory.wfFrom lo' m = true := by
  cases m with
  | nil => rfl
  | cons e m =>
    simp only [Memory.wfFrom, Bool.and_eq_true, decide_eq_true_eq] at h ⊢
    exact ⟨⟨⟨by omega, h.1.1.2⟩, h.1.2⟩, h.2⟩

theorem Memory.wfFrom_erase {lo : Nat} {m : Memory} (a : Nat) (h : Memory.wfFrom lo m = true) :
    Memory.wfFrom lo (Memory.erase m a) = true := by
  induction m generalizing lo with
  | nil => rfl
  | cons e m ih =>
    simp only [Memory.wfFrom, Bool.and_eq_true, decide_eq_true_eq] at h
    simp only [Memory.erase, List.filter_cons] at ih ⊢
    split
    · simp only [Memory.wfFrom, Bool.and_eq_true, decide_eq_true_eq]
      exact ⟨h.1, ih h.2⟩
    · exact Memory.wfFrom_mono (ih h.2) (by omega)

theorem Memory.wfFrom_insert {lo : Nat} {m : Memory} {a : Nat} {v : Byte} (h : Memory.wfFrom lo m = true)
    (hlo : lo ≤ a) (ha : a < 65536) (hv : v ≠ resetByte a) (hm : ∀ e ∈ m, e.1 ≠ a) :
    Memory.wfFrom lo (Memory.insert m a v) = true := by
  induction m generalizing lo with
  | nil => simp [Memory.insert, Memory.wfFrom, hlo, ha, hv]
  | cons e m ih =>
    obtain ⟨j, w⟩ := e
    have hj : j ≠ a := hm (j, w) (by simp)
    simp only [Memory.wfFrom, Bool.and_eq_true, decide_eq_true_eq] at h
    simp only [Memory.insert]
    split
    · simp only [Memory.wfFrom, Bool.and_eq_true, decide_eq_true_eq]
      exact ⟨⟨⟨hlo, ha⟩, hv⟩, ⟨⟨by omega, h.1.1.2⟩, h.1.2⟩, h.2⟩
    · simp only [Memory.wfFrom, Bool.and_eq_true, decide_eq_true_eq]
      exact ⟨h.1, ih h.2 (by omega) fun e he => hm e (by simp [he])⟩

/-- A write at an address of the machine keeps the canonical form. -/
theorem Memory.wf_write {m : Memory} (h : Memory.wf m = true) {a : Nat} (ha : a < 65536) (v : Byte) :
    Memory.wf (Memory.write m a v) = true := by
  unfold Memory.write
  split
  · exact Memory.wfFrom_erase a h
  · rename_i hv
    exact Memory.wfFrom_insert (Memory.wfFrom_erase a h) (Nat.zero_le _) ha hv (by simp [Memory.erase])

theorem State.writeMem_wf {s : State} (h : Memory.wf s.mem = true) (a : Addr) (v : Byte) :
    Memory.wf (s.writeMem a v).mem = true := Memory.wf_write h a.isLt v

theorem Memory.read_of_wfFrom {lo k : Nat} {m : Memory} (h : Memory.wfFrom lo m = true) (hk : k < lo) :
    Memory.read m k = resetByte k := by
  induction m generalizing lo with
  | nil => rfl
  | cons e m ih =>
    simp only [Memory.wfFrom, Bool.and_eq_true, decide_eq_true_eq] at h
    simp only [Memory.read]
    rw [if_neg (by omega)]
    exact ih h.2 (by omega)

/-- Canonical memories that read alike everywhere are equal lists. -/
theorem Memory.eq_of_read {lo : Nat} {m m' : Memory} (h : Memory.wfFrom lo m = true) (h' : Memory.wfFrom lo m' = true)
    (heq : ∀ k, Memory.read m k = Memory.read m' k) : m = m' := by
  induction m generalizing lo m' with
  | nil =>
    cases m' with
    | nil => rfl
    | cons e m' =>
      simp only [Memory.wfFrom, Bool.and_eq_true, decide_eq_true_eq] at h'
      have := heq e.1
      simp only [Memory.read, if_true] at this
      exact absurd this.symm h'.1.2
  | cons e m ih =>
    obtain ⟨j, w⟩ := e
    simp only [Memory.wfFrom, Bool.and_eq_true, decide_eq_true_eq] at h
    cases m' with
    | nil =>
      have := heq j
      simp only [Memory.read, if_true] at this
      exact absurd this h.1.2
    | cons e' m' =>
      obtain ⟨j', w'⟩ := e'
      simp only [Memory.wfFrom, Bool.and_eq_true, decide_eq_true_eq] at h'
      have hj : j = j' := by
        rcases Nat.lt_trichotomy j j' with hlt | rfl | hlt
        · have := heq j
          simp only [Memory.read, if_true, if_neg (by omega : ¬ j = j')] at this
          rw [Memory.read_of_wfFrom h'.2 (by omega)] at this
          exact absurd this h.1.2
        · rfl
        · have := heq j'
          simp only [Memory.read, if_true, if_neg (by omega : ¬ j' = j)] at this
          rw [Memory.read_of_wfFrom h.2 (by omega)] at this
          exact absurd this.symm h'.1.2
      subst hj
      have hw : w = w' := by simpa [Memory.read] using heq j
      subst hw
      congr 1
      refine ih h.2 h'.2 fun k => ?_
      by_cases hk : k = j
      · subst hk; rw [Memory.read_of_wfFrom h.2 (by omega), Memory.read_of_wfFrom h'.2 (by omega)]
      · simpa [Memory.read, hk] using heq k

end Sys2Proof.Machine
end

