-- ==== Sys2Proof/Laws/Ops.lean ====
section
/-! SUPPORT. One lemma per shared operation that says once everything it can do. -/

namespace Sys2Proof.Machine

/-! ### Registers -/

@[simp] theorem State.reg_setReg (s : State) (r q : RegIdx) (v : Byte) :
    (s.setReg r v).reg q = if q = r then v else s.reg q := by
  simp only [State.reg, State.setReg, Vector.getElem_set, BitVec.toNat_inj, eq_comm]

/-- Register files that read alike are equal. -/
theorem regs_ext {s t : State} (h : ∀ r, t.reg r = s.reg r) : t.regs = s.regs := by
  apply Vector.ext
  intro i hi
  have := h (BitVec.ofNat 4 i)
  simpa only [State.reg, BitVec.toNat_ofNat, Nat.mod_eq_of_lt (show i < 2 ^ 4 from hi)] using this

@[simp] theorem State.reg_setSp (s : State) (v : Addr) (q : RegIdx) :
    (s.setSp v).reg q = if q = 15#4 then loByte v else if q = 14#4 then hiByte v else s.reg q := by
  simp [State.setSp]

@[simp] theorem State.sp_setSp (s : State) (v : Addr) : (s.setSp v).sp = v := by simp [State.sp]

/-! ### Register ranges (44_stack.md R202) -/

@[simp] theorem length_regsFrom (k : Nat) (r : RegIdx) : (regsFrom k r).length = k := by
  induction k generalizing r with
  | zero => rfl
  | succ k ih => simp [regsFrom, ih]

theorem getElem_regsFrom (k : Nat) (r : RegIdx) (i : Nat) (h : i < (regsFrom k r).length) :
    (regsFrom k r)[i] = r + BitVec.ofNat 4 i := by
  induction k generalizing r i with
  | zero => simp [regsFrom] at h
  | succ k ih =>
    cases i with
    | zero => simp [regsFrom]
    | succ i =>
      simp only [regsFrom, List.getElem_cons_succ]
      rw [ih]
      rw [nx, BitVec.add_assoc, BitVec.ofNat_add, BitVec.add_comm (BitVec.ofNat 4 i)]
      rfl

@[simp] theorem length_regRange (rx ry : RegIdx) : (regRange rx ry).length = (ry - rx).toNat + 1 := by
  simp [regRange]

/-! ### The stack (44_stack.md R200, R201) -/

/-- PUSH's loop: the stack pointer falls by the number of registers; registers are not touched. -/
theorem pushLoop_sp (rs : List RegIdx) (sp : Addr) (s : State) :
    (pushLoop rs sp s).1 = sp - BitVec.ofNat 16 rs.length := by
  induction rs generalizing sp s with
  | nil => simp [pushLoop]
  | cons r rs ih =>
    simp only [pushLoop, ih, List.length_cons, BitVec.ofNat_add]
    bv_omega

/-- PUSH's loop changes memory alone. -/
theorem pushLoop_eq (rs : List RegIdx) (sp : Addr) (s : State) :
    (pushLoop rs sp s).2 = { s with mem := (pushLoop rs sp s).2.mem } := by
  induction rs generalizing sp s with
  | nil => rfl
  | cons r rs ih =>
    simp only [pushLoop]
    rw [ih]
    rfl

/-- POP's loop: the stack pointer rises by the number of registers. -/
theorem popLoop_sp (rs : List RegIdx) (sp : Addr) (s : State) :
    (popLoop rs sp s).1 = sp + BitVec.ofNat 16 rs.length := by
  induction rs generalizing sp s with
  | nil => simp [popLoop]
  | cons r rs ih =>
    simp only [popLoop, ih, List.length_cons, BitVec.ofNat_add]
    bv_omega

/-- POP's loop changes registers alone. -/
theorem popLoop_eq (rs : List RegIdx) (sp : Addr) (s : State) :
    (popLoop rs sp s).2 = { s with regs := (popLoop rs sp s).2.regs } := by
  induction rs generalizing sp s with
  | nil => rfl
  | cons r rs ih =>
    simp only [popLoop]
    rw [ih]
    rfl

/-- PUSH: memory from the loop, the stack pointer down by the number of registers, all else unchanged. -/
theorem State.pushRegs_eq (s : State) (rs : List RegIdx) :
    s.pushRegs rs =
      ({ s with mem := (pushLoop rs s.sp s).2.mem } : State).setSp (s.sp - BitVec.ofNat 16 rs.length) := by
  simp only [State.pushRegs, pushLoop_sp]
  rw [← pushLoop_eq]

/-- POP: registers from the loop, the stack pointer up by the number of registers, all else unchanged. -/
theorem State.popRegs_eq (s : State) (rs : List RegIdx) :
    s.popRegs rs =
      ({ s with regs := (popLoop rs s.sp s).2.regs } : State).setSp (s.sp + BitVec.ofNat 16 rs.length) := by
  simp only [State.popRegs, popLoop_sp]
  rw [← popLoop_eq]

/-- PUSH's loop leaves every cell that it does not reach. -/
theorem pushLoop_readMem_other (rs : List RegIdx) (sp : Addr) (s : State) (a : Addr)
    (h : ∀ k, k < rs.length → a ≠ sp - BitVec.ofNat 16 (k + 1)) :
    (pushLoop rs sp s).2.readMem a = s.readMem a := by
  induction rs generalizing sp s with
  | nil => rfl
  | cons r rs ih =>
    have h0 : a ≠ sp - 1#16 := by simpa using h 0 (by simp)
    rw [pushLoop, ih]
    · simp [h0]
    · intro k hk
      have := h (k + 1) (by simpa using hk)
      rw [BitVec.ofNat_add] at this ⊢
      intro he
      apply this
      rw [he]
      bv_omega

/-- PUSH's loop stores the `k`-th register of its list `k + 1` bytes below the stack pointer. -/
theorem pushLoop_readMem (rs : List RegIdx) (sp : Addr) (s : State) (hl : rs.length ≤ 65536) (k : Nat)
    (hk : k < rs.length) : (pushLoop rs sp s).2.readMem (sp - BitVec.ofNat 16 (k + 1)) = s.reg rs[k] := by
  induction rs generalizing sp s k with
  | nil => simp at hk
  | cons r rs ih =>
    cases k with
    | zero =>
      rw [pushLoop, pushLoop_readMem_other]
      · simp
      · intro k hk'
        simp only [List.length_cons] at hl
        simp only [ne_eq, ← BitVec.toNat_inj, BitVec.toNat_sub, BitVec.toNat_ofNat]
        omega
    | succ k =>
      have e : sp - BitVec.ofNat 16 (k + 1 + 1) = sp - 1#16 - BitVec.ofNat 16 (k + 1) := by
        rw [BitVec.ofNat_add (k + 1)]; bv_omega
      rw [e, pushLoop, ih _ _ (by simp only [List.length_cons] at hl; omega) _ (by simpa using hk)]
      simp

/-- POP's loop leaves every register that is not in its list. -/
theorem popLoop_reg_other (rs : List RegIdx) (sp : Addr) (s : State) (q : RegIdx) (h : q ∉ rs) :
    (popLoop rs sp s).2.reg q = s.reg q := by
  induction rs generalizing sp s with
  | nil => rfl
  | cons r rs ih =>
    simp only [List.mem_cons, not_or] at h
    rw [popLoop, ih _ _ h.2]
    simp [h.1]

/-- POP's loop loads the `k`-th register of its list from `k` bytes above the stack pointer. -/
theorem popLoop_reg (rs : List RegIdx) (sp : Addr) (s : State) (hn : rs.Nodup) (k : Nat) (hk : k < rs.length) :
    (popLoop rs sp s).2.reg rs[k] = s.readMem (sp + BitVec.ofNat 16 k) := by
  induction rs generalizing sp s k with
  | nil => simp at hk
  | cons r rs ih =>
    simp only [List.nodup_cons] at hn
    cases k with
    | zero => rw [popLoop, List.getElem_cons_zero, popLoop_reg_other _ _ _ _ hn.1]; simp
    | succ k =>
      have e : sp + BitVec.ofNat 16 (k + 1) = sp + 1#16 + BitVec.ofNat 16 k := by
        rw [BitVec.ofNat_add]; bv_omega
      rw [popLoop, List.getElem_cons_succ, ih _ _ hn.2 _ (by simpa using hk), e]
      simp

/-- CALL's and CALLL's push (43_control.md R188). -/
theorem State.pushReturn_eq (s : State) :
    s.pushReturn = ((s.writeMem (s.sp - 2#16) (hiByte s.nextPc)).writeMem (s.sp - 1#16) (loByte s.nextPc)).setSp
      (s.sp - 2#16) := by
  have h : s.sp - 2#16 + 1#16 = s.sp - 1#16 := by bv_omega
  simp only [State.pushReturn, h]

@[simp] theorem State.sp_pushReturn (s : State) : s.pushReturn.sp = s.sp - 2#16 := by simp [State.pushReturn]

@[simp] theorem State.sp_popReturn (s : State) : s.popReturn.sp = s.sp + 2#16 := by simp [State.popReturn]

@[simp] theorem State.sp_pushRegs (s : State) (rs : List RegIdx) :
    (s.pushRegs rs).sp = s.sp - BitVec.ofNat 16 rs.length := by simp [State.pushRegs, pushLoop_sp]

@[simp] theorem State.sp_popRegs (s : State) (rs : List RegIdx) :
    (s.popRegs rs).sp = s.sp + BitVec.ofNat 16 rs.length := by simp [State.popRegs, popLoop_sp]

/-! ### Loads and stores with the hook (20_memory.md R72) -/

theorem State.putChar_eq (s : State) (v : Byte) :
    s.putChar v = { s with charOut := if s.charOutAttached then s.charOut ++ [v] else s.charOut } := by
  unfold State.putChar; split <;> rfl

theorem State.takeChar_eq (s : State) :
    s.takeChar = { s with charIn := if s.charInAttached then s.charIn.tail else s.charIn } := by
  unfold State.takeChar; split <;> rfl

/-- A program's store writes its one cell; the rest of the state changes in the output trace alone. -/
theorem State.storeByte_eq (s : State) (a : Addr) (v : Byte) :
    s.storeByte a v =
      { s with
        mem := Memory.write s.mem a.toNat v
        charOut := if s.storeHooked a && s.charOutAttached then s.charOut ++ [v] else s.charOut } := by
  unfold State.storeByte
  cases h : s.storeHooked a
  · simp [State.writeMem]
  · cases h' : s.charOutAttached <;> simp [State.putChar, State.writeMem, h']

/-- A program's load changes the pending input alone. -/
theorem State.afterLoad_eq (s : State) (a : Addr) :
    s.afterLoad a =
      { s with charIn := if s.loadHooked a && s.charInAttached then s.charIn.tail else s.charIn } := by
  unfold State.afterLoad
  cases s.loadHooked a
  · rfl
  · exact State.takeChar_eq s

/-- A program's store writes its one cell, hooked or not (R72). -/
@[simp] theorem State.storeByte_readMem (s : State) (a : Addr) (v : Byte) (k : Addr) :
    (s.storeByte a v).readMem k = if k = a then v else s.readMem k := by
  unfold State.storeByte; split <;> simp

/-- The output trace after a program's store (R72). -/
@[simp] theorem State.storeByte_charOut (s : State) (a : Addr) (v : Byte) :
    (s.storeByte a v).charOut =
      if s.storeHooked a && s.charOutAttached then s.charOut ++ [v] else s.charOut := by
  rw [State.storeByte_eq]

/-- The pending input after a program's load (R72). -/
@[simp] theorem State.afterLoad_charIn (s : State) (a : Addr) :
    (s.afterLoad a).charIn = if s.loadHooked a && s.charInAttached then s.charIn.tail else s.charIn := by
  rw [State.afterLoad_eq]

/-! ### Fault entry (60_exceptions.md R226) -/

/-- Everything that taking a fault does. -/
theorem State.takeFault_eq (s : State) (code : FaultCode) :
    s.takeFault code =
      { s with
        regs := s.regs.set 0 (faultByte code)
        mem := Memory.write (Memory.write s.mem 0x00FC (hiByte s.pc)) 0x00FD (loByte s.pc)
        pc := s.faultVector } := by
  have hv : (((s.setReg 0#4 (faultByte code)).writeMem savedPcHiAddr (hiByte s.pc)).writeMem savedPcLoAddr
      (loByte s.pc)).faultVector = s.faultVector := by
    simp [State.faultVector, vectorHiAddr, vectorLoAddr, savedPcHiAddr, savedPcLoAddr]
  simp only [State.takeFault, hv]
  rfl

@[simp] theorem State.takeFault_reg (s : State) (code : FaultCode) (q : RegIdx) :
    (s.takeFault code).reg q = if q = 0#4 then faultByte code else s.reg q := by
  have : (s.takeFault code).reg q = (s.setReg 0#4 (faultByte code)).reg q := by rw [State.takeFault_eq]; rfl
  simpa using this

@[simp] theorem State.takeFault_readMem (s : State) (code : FaultCode) (k : Addr) :
    (s.takeFault code).readMem k =
      if k = savedPcLoAddr then loByte s.pc else if k = savedPcHiAddr then hiByte s.pc else s.readMem k := by
  have : (s.takeFault code).readMem k =
      ((s.writeMem savedPcHiAddr (hiByte s.pc)).writeMem savedPcLoAddr (loByte s.pc)).readMem k := by
    rw [State.takeFault_eq]; rfl
  simpa using this

@[simp] theorem State.takeFault_pc (s : State) (code : FaultCode) : (s.takeFault code).pc = s.faultVector := by
  rw [State.takeFault_eq]

/-! ### The results of the arithmetic-logic unit -/

/-- Everything that storing a result with its flags does (10_state.md R30). -/
theorem State.finishAlu_eq (s : State) (rd : RegIdx) (r : AluResult) :
    s.finishAlu rd r =
      { s with
        regs := (s.setReg rd r.value).regs
        z := isZero r.value, c := r.carry, n := isNegative r.value
        pc := s.nextPc } := rfl

theorem State.finishAlu_reg (s : State) (rd q : RegIdx) (r : AluResult) :
    (s.finishAlu rd r).reg q = if q = rd then r.value else s.reg q := by simp [State.finishAlu]

/-- The exact sum, narrowed (41_arithmetic.md R140, R141). -/
theorem toNat_addBytes (a b : Byte) (cin : Bool) :
    (addBytes a b cin).value.toNat = (a.toNat + b.toNat + cin.toNat) % 256 := by simp [addBytes]

/-- The exact difference, narrowed (R142, R143). -/
theorem toNat_subBytes (a b : Byte) (bin : Bool) :
    ((subBytes a b bin).value.toNat : Int) = ((a.toNat : Int) - b.toNat - bin.toNat) % 256 := by
  simp [subBytes, BitVec.toNat_ofInt]
  omega

/-- The product is exact (R147). -/
theorem toNat_product (a b : Byte) : (product a b).toNat = a.toNat * b.toNat := by
  have h : a.toNat * b.toNat ≤ 255 * 255 :=
    Nat.mul_le_mul (Nat.le_of_lt_succ a.isLt) (Nat.le_of_lt_succ b.isLt)
  simp only [product, BitVec.toNat_ofNat]
  omega

/-! ### Registers that the stack operations leave; ranges by position (44_stack.md R200 to R202) -/

theorem State.pushRegs_reg_other (s : State) (rs : List RegIdx) (q : RegIdx) (h : q ∉ [14#4, 15#4]) :
    (s.pushRegs rs).reg q = s.reg q := by
  simp only [List.mem_cons, List.not_mem_nil, or_false, not_or] at h
  rw [State.pushRegs_eq, State.reg_setSp, if_neg h.2, if_neg h.1]
  rfl

theorem State.popRegs_reg_other (s : State) (rs : List RegIdx) (q : RegIdx) (h : q ∉ rs ++ [14#4, 15#4]) :
    (s.popRegs rs).reg q = s.reg q := by
  simp only [List.mem_append, List.mem_cons, List.not_mem_nil, or_false, not_or] at h
  rw [State.popRegs_eq, State.reg_setSp, if_neg h.2.2, if_neg h.2.1]
  exact popLoop_reg_other _ _ _ _ h.1

theorem mem_popRange (order : PopOrder) (rx ry q : RegIdx) : q ∈ popRange order rx ry ↔ q ∈ regRange rx ry := by
  cases order <;> simp [popRange]

theorem getElem_regRange (rx ry : RegIdx) (k : Nat) (h : k < (regRange rx ry).length) :
    (regRange rx ry)[k] = rx + BitVec.ofNat 4 k := getElem_regsFrom _ _ _ _

/-- The register `k` places before the last of a range is the last minus `k`. -/
theorem regRange_from_end (rx ry : RegIdx) (k : Nat) (h : k ≤ (ry - rx).toNat) :
    rx + BitVec.ofNat 4 ((ry - rx).toNat - k) = ry - BitVec.ofNat 4 k := by
  have e : (ry - rx).toNat = (16 - rx.toNat + ry.toNat) % 16 := BitVec.toNat_sub ry rx
  have hx := rx.isLt
  have hy := ry.isLt
  rw [e] at h ⊢
  apply BitVec.eq_of_toNat_eq
  simp only [BitVec.toNat_add, BitVec.toNat_sub, BitVec.toNat_ofNat]
  omega

/-! ### The canonical form under the operations that write memory (log 10) -/

theorem pushLoop_wf {s : State} (h : Memory.wf s.mem = true) (rs : List RegIdx) (sp : Addr) :
    Memory.wf (pushLoop rs sp s).2.mem = true := by
  induction rs generalizing sp s with
  | nil => exact h
  | cons r rs ih => exact ih (State.writeMem_wf h _ _) _

theorem State.pushRegs_wf {s : State} (h : Memory.wf s.mem = true) (rs : List RegIdx) :
    Memory.wf (s.pushRegs rs).mem = true := by
  rw [State.pushRegs_eq]
  exact pushLoop_wf h rs s.sp

theorem State.pushReturn_wf {s : State} (h : Memory.wf s.mem = true) : Memory.wf s.pushReturn.mem = true := by
  rw [State.pushReturn_eq]
  exact State.writeMem_wf (State.writeMem_wf h _ _) _ _

theorem State.storeByte_wf {s : State} (h : Memory.wf s.mem = true) (a : Addr) (v : Byte) :
    Memory.wf (s.storeByte a v).mem = true := by
  rw [State.storeByte_eq]
  exact Memory.wf_write h a.isLt v

theorem State.placeWord_wf {s : State} (h : Memory.wf s.mem = true) (a : Addr) (iw : BitVec 16) :
    Memory.wf (s.placeWord a iw).mem = true := State.writeMem_wf (State.writeMem_wf h _ _) _ _

theorem State.takeFault_wf {s : State} (h : Memory.wf s.mem = true) (code : FaultCode) :
    Memory.wf (s.takeFault code).mem = true := by
  rw [State.takeFault_eq]
  exact Memory.wf_write (Memory.wf_write h (by decide) _) (by decide) _

end Sys2Proof.Machine
end

