-- ==== Sys2Proof/Laws/Events.lean ====
section
/-! SUPPORT. What the event lists of the shared operations are, said once; what lists of events joined end to end do. -/

namespace Sys2Proof.Machine

theorem replayWrites_append (es fs : List PortEvent) (m : Memory) :
    replayWrites (es ++ fs) m = replayWrites fs (replayWrites es m) := by
  induction es generalizing m with
  | nil => rfl
  | cons e es ih => cases e <;> exact ih _

theorem outputsOf_append (es fs : List PortEvent) : outputsOf (es ++ fs) = outputsOf es ++ outputsOf fs := by
  induction es with
  | nil => rfl
  | cons e es ih => cases e <;> simp [outputsOf, ih]

theorem inputRequests_append (es fs : List PortEvent) :
    inputRequests (es ++ fs) = inputRequests es + inputRequests fs := by
  induction es with
  | nil => exact (Nat.zero_add _).symm
  | cons e es ih => cases e <;> simp [inputRequests, ih, Nat.add_right_comm]

/-- PUSH's events: the `k`-th register of the list goes `k + 1` bytes below the stack pointer (20_memory.md R61). -/
theorem State.pushEvents_eq (s : State) (rs : List RegIdx) (sp : Addr) :
    s.pushEvents rs sp = rs.mapIdx fun k r => .memWrite (sp - BitVec.ofNat 16 (k + 1)) (s.reg r) := by
  induction rs generalizing sp with
  | nil => rfl
  | cons r rs ih =>
    have h (k : Nat) : sp - 1#16 - BitVec.ofNat 16 (k + 1) = sp - BitVec.ofNat 16 (k + 1 + 1) := by
      rw [BitVec.ofNat_add (k + 1)]; bv_omega
    simp only [State.pushEvents, ih, List.mapIdx_cons, h]

/-- POP's events: as many reads as the list has registers, one byte higher each (20_memory.md R61). -/
theorem State.popEvents_eq (s : State) (rs : List RegIdx) (sp : Addr) :
    s.popEvents rs sp = (List.range rs.length).map fun k => s.readEvent (sp + BitVec.ofNat 16 k) := by
  induction rs generalizing sp with
  | nil => rfl
  | cons r rs ih =>
    have h (k : Nat) : sp + 1#16 + BitVec.ofNat 16 k = sp + BitVec.ofNat 16 (k + 1) := by
      rw [BitVec.ofNat_add]; bv_omega
    simp [State.popEvents, ih, List.range_succ_eq_map, h, Function.comp_def]

/-- PUSH's writes replayed are what its loop leaves in memory; it makes no character event. -/
theorem State.replayWrites_pushEvents (s : State) (rs : List RegIdx) (sp : Addr) :
    replayWrites (s.pushEvents rs sp) s.mem = (pushLoop rs sp s).2.mem := by
  have gen (u : State) (h : u.regs = s.regs) : replayWrites (s.pushEvents rs sp) u.mem = (pushLoop rs sp u).2.mem := by
    induction rs generalizing sp u with
    | nil => rfl
    | cons r rs ih =>
      have hr : s.reg r = u.reg r := by simp only [State.reg, h]
      simp only [State.pushEvents, replayWrites, pushLoop, hr]
      exact ih (sp - 1#16) (u.writeMem (sp - 1#16) (u.reg r)) h
  exact gen s rfl

/-- Fault entry's writes replayed are what it leaves in memory (60_exceptions.md R226). -/
theorem State.replayWrites_faultEvents (s : State) (code : FaultCode) :
    replayWrites s.faultEvents s.mem = (s.takeFault code).mem := by
  rw [State.takeFault_eq]
  rfl

end Sys2Proof.Machine
end

