-- ==== Sys2Proof/Laws/PerInstr.lean ====
section
/-! SUPPORT. For each instruction: its encoding has the shape of its opcode, its unused bits are zero, and it matches the row
of spec/opcode_table.json that bears its mnemonic (30_encoding.md R93, R95, R103). -/

namespace Sys2Proof.Laws

open Sys2Proof.Machine

/-- The encoding of an instruction agrees with the table's row. -/
def EncodingRow.Statement (i : Instr) : Prop :=
  shapeOfOpcode (opcodeOf i) = some i.shape ∧ canonicalWord (encode i) = true ∧
    ∃ r ∈ opcodeTable, r.mnemonic = mnemonicOf i ∧ r.matchesWord (encode i) = true

/-- The mask of every row keeps the opcode byte alone (R103). -/
theorem mask_joinBytes (op arg : Byte) : joinBytes op arg &&& 0xFF00#16 = joinBytes op 0x00#8 := by
  apply BitVec.eq_of_getLsbD_eq
  intro i hi
  rw [BitVec.getLsbD_and, getLsbD_joinBytes, getLsbD_joinBytes]
  have hmask : (0xFF00#16).getLsbD i = decide (8 ≤ i) := by
    have : ∀ j < 16, (0xFF00#16).getLsbD j = decide (8 ≤ j) := by decide
    exact this i hi
  rw [hmask]
  by_cases h : i < 8
  · simp [h]
  · simp [h, Nat.le_of_not_lt h]

/-- A word with a given opcode byte has its unused bits zero when its shape says so. -/
theorem canonicalWord_joinBytes (op arg : Byte) (sh : Shape) (h : shapeOfOpcode op = some sh)
    (hn : sh = .none → arg = 0x00#8) (hr : sh = .r → loNibble arg = 0#4) :
    canonicalWord (joinBytes op arg) = true := by
  cases sh <;> simp_all [canonicalWord]

/-- A row of the table whose pattern is an instruction's opcode is that instruction's row. -/
theorem encodingRow_of (i : Instr) (op : Byte) (r : OpRow) (hmem : r ∈ opcodeTable) (hop : opcodeOf i = op)
    (hm : r.mnemonic = mnemonicOf i) (hp : r.pattern = joinBytes op 0x00#8 ∧ r.mask = 0xFF00#16)
    (hs : shapeOfOpcode op = some i.shape) (hn : i.shape = .none → operandOf i = 0x00#8)
    (hr : i.shape = .r → loNibble (operandOf i) = 0#4) : EncodingRow.Statement i :=
  ⟨hop ▸ hs, canonicalWord_joinBytes _ _ _ (hop ▸ hs) hn hr, r, hmem, hm, by
    simp only [OpRow.matchesWord, hp.1, hp.2, encode, hop, mask_joinBytes, BEq.rfl]⟩

theorem EncodingRow.nop : EncodingRow.Statement .nop :=
  encodingRow_of _ 0x00#8 ⟨"NOP", 0x0000#16, 0xFF00#16⟩ (List.mem_of_getElem (i := 0) (h := by decide) rfl) rfl rfl
    (by decide) rfl (fun _ => rfl) nofun

theorem EncodingRow.ldi0 (imm : Byte) : EncodingRow.Statement (.ldi0 imm) :=
  encodingRow_of _ 0x10#8 ⟨"LDI0", 0x1000#16, 0xFF00#16⟩ (List.mem_of_getElem (i := 1) (h := by decide) rfl) rfl rfl
    (by decide) rfl nofun nofun

theorem EncodingRow.ldi1 (imm : Byte) : EncodingRow.Statement (.ldi1 imm) :=
  encodingRow_of _ 0x11#8 ⟨"LDI1", 0x1100#16, 0xFF00#16⟩ (List.mem_of_getElem (i := 2) (h := by decide) rfl) rfl rfl
    (by decide) rfl nofun nofun

theorem EncodingRow.ldi2 (imm : Byte) : EncodingRow.Statement (.ldi2 imm) :=
  encodingRow_of _ 0x12#8 ⟨"LDI2", 0x1200#16, 0xFF00#16⟩ (List.mem_of_getElem (i := 3) (h := by decide) rfl) rfl rfl
    (by decide) rfl nofun nofun

theorem EncodingRow.ldi3 (imm : Byte) : EncodingRow.Statement (.ldi3 imm) :=
  encodingRow_of _ 0x13#8 ⟨"LDI3", 0x1300#16, 0xFF00#16⟩ (List.mem_of_getElem (i := 4) (h := by decide) rfl) rfl rfl
    (by decide) rfl nofun nofun

theorem EncodingRow.ldi4 (imm : Byte) : EncodingRow.Statement (.ldi4 imm) :=
  encodingRow_of _ 0x14#8 ⟨"LDI4", 0x1400#16, 0xFF00#16⟩ (List.mem_of_getElem (i := 5) (h := by decide) rfl) rfl rfl
    (by decide) rfl nofun nofun

theorem EncodingRow.ldi5 (imm : Byte) : EncodingRow.Statement (.ldi5 imm) :=
  encodingRow_of _ 0x15#8 ⟨"LDI5", 0x1500#16, 0xFF00#16⟩ (List.mem_of_getElem (i := 6) (h := by decide) rfl) rfl rfl
    (by decide) rfl nofun nofun

theorem EncodingRow.ldi6 (imm : Byte) : EncodingRow.Statement (.ldi6 imm) :=
  encodingRow_of _ 0x16#8 ⟨"LDI6", 0x1600#16, 0xFF00#16⟩ (List.mem_of_getElem (i := 7) (h := by decide) rfl) rfl rfl
    (by decide) rfl nofun nofun

theorem EncodingRow.ldi7 (imm : Byte) : EncodingRow.Statement (.ldi7 imm) :=
  encodingRow_of _ 0x17#8 ⟨"LDI7", 0x1700#16, 0xFF00#16⟩ (List.mem_of_getElem (i := 8) (h := by decide) rfl) rfl rfl
    (by decide) rfl nofun nofun

theorem EncodingRow.ldi8 (imm : Byte) : EncodingRow.Statement (.ldi8 imm) :=
  encodingRow_of _ 0x18#8 ⟨"LDI8", 0x1800#16, 0xFF00#16⟩ (List.mem_of_getElem (i := 9) (h := by decide) rfl) rfl rfl
    (by decide) rfl nofun nofun

theorem EncodingRow.ldi9 (imm : Byte) : EncodingRow.Statement (.ldi9 imm) :=
  encodingRow_of _ 0x19#8 ⟨"LDI9", 0x1900#16, 0xFF00#16⟩ (List.mem_of_getElem (i := 10) (h := by decide) rfl) rfl rfl
    (by decide) rfl nofun nofun

theorem EncodingRow.ldi10 (imm : Byte) : EncodingRow.Statement (.ldi10 imm) :=
  encodingRow_of _ 0x1A#8 ⟨"LDI10", 0x1A00#16, 0xFF00#16⟩ (List.mem_of_getElem (i := 11) (h := by decide) rfl) rfl rfl
    (by decide) rfl nofun nofun

theorem EncodingRow.ldi11 (imm : Byte) : EncodingRow.Statement (.ldi11 imm) :=
  encodingRow_of _ 0x1B#8 ⟨"LDI11", 0x1B00#16, 0xFF00#16⟩ (List.mem_of_getElem (i := 12) (h := by decide) rfl) rfl rfl
    (by decide) rfl nofun nofun

theorem EncodingRow.ldi12 (imm : Byte) : EncodingRow.Statement (.ldi12 imm) :=
  encodingRow_of _ 0x1C#8 ⟨"LDI12", 0x1C00#16, 0xFF00#16⟩ (List.mem_of_getElem (i := 13) (h := by decide) rfl) rfl rfl
    (by decide) rfl nofun nofun

theorem EncodingRow.ldi13 (imm : Byte) : EncodingRow.Statement (.ldi13 imm) :=
  encodingRow_of _ 0x1D#8 ⟨"LDI13", 0x1D00#16, 0xFF00#16⟩ (List.mem_of_getElem (i := 14) (h := by decide) rfl) rfl rfl
    (by decide) rfl nofun nofun

theorem EncodingRow.ldi14 (imm : Byte) : EncodingRow.Statement (.ldi14 imm) :=
  encodingRow_of _ 0x1E#8 ⟨"LDI14", 0x1E00#16, 0xFF00#16⟩ (List.mem_of_getElem (i := 15) (h := by decide) rfl) rfl rfl
    (by decide) rfl nofun nofun

theorem EncodingRow.ldi15 (imm : Byte) : EncodingRow.Statement (.ldi15 imm) :=
  encodingRow_of _ 0x1F#8 ⟨"LDI15", 0x1F00#16, 0xFF00#16⟩ (List.mem_of_getElem (i := 16) (h := by decide) rfl) rfl rfl
    (by decide) rfl nofun nofun

theorem EncodingRow.mov (rx ry : RegIdx) : EncodingRow.Statement (.mov rx ry) :=
  encodingRow_of _ 0x20#8 ⟨"MOV", 0x2000#16, 0xFF00#16⟩ (List.mem_of_getElem (i := 17) (h := by decide) rfl) rfl rfl
    (by decide) rfl nofun nofun

theorem EncodingRow.swap (rx ry : RegIdx) : EncodingRow.Statement (.swap rx ry) :=
  encodingRow_of _ 0x21#8 ⟨"SWAP", 0x2100#16, 0xFF00#16⟩ (List.mem_of_getElem (i := 18) (h := by decide) rfl) rfl rfl
    (by decide) rfl nofun nofun

theorem EncodingRow.load (rx ry : RegIdx) : EncodingRow.Statement (.load rx ry) :=
  encodingRow_of _ 0x22#8 ⟨"LOAD", 0x2200#16, 0xFF00#16⟩ (List.mem_of_getElem (i := 19) (h := by decide) rfl) rfl rfl
    (by decide) rfl nofun nofun

theorem EncodingRow.stor (rx ry : RegIdx) : EncodingRow.Statement (.stor rx ry) :=
  encodingRow_of _ 0x23#8 ⟨"STOR", 0x2300#16, 0xFF00#16⟩ (List.mem_of_getElem (i := 20) (h := by decide) rfl) rfl rfl
    (by decide) rfl nofun nofun

theorem EncodingRow.loadz (imm : Byte) : EncodingRow.Statement (.loadz imm) :=
  encodingRow_of _ 0x24#8 ⟨"LOADZ", 0x2400#16, 0xFF00#16⟩ (List.mem_of_getElem (i := 21) (h := by decide) rfl) rfl rfl
    (by decide) rfl nofun nofun

theorem EncodingRow.storz (imm : Byte) : EncodingRow.Statement (.storz imm) :=
  encodingRow_of _ 0x25#8 ⟨"STORZ", 0x2500#16, 0xFF00#16⟩ (List.mem_of_getElem (i := 22) (h := by decide) rfl) rfl rfl
    (by decide) rfl nofun nofun

theorem EncodingRow.add (rx ry : RegIdx) : EncodingRow.Statement (.add rx ry) :=
  encodingRow_of _ 0x30#8 ⟨"ADD", 0x3000#16, 0xFF00#16⟩ (List.mem_of_getElem (i := 23) (h := by decide) rfl) rfl rfl
    (by decide) rfl nofun nofun

theorem EncodingRow.adc (rx ry : RegIdx) : EncodingRow.Statement (.adc rx ry) :=
  encodingRow_of _ 0x31#8 ⟨"ADC", 0x3100#16, 0xFF00#16⟩ (List.mem_of_getElem (i := 24) (h := by decide) rfl) rfl rfl
    (by decide) rfl nofun nofun

theorem EncodingRow.sub (rx ry : RegIdx) : EncodingRow.Statement (.sub rx ry) :=
  encodingRow_of _ 0x32#8 ⟨"SUB", 0x3200#16, 0xFF00#16⟩ (List.mem_of_getElem (i := 25) (h := by decide) rfl) rfl rfl
    (by decide) rfl nofun nofun

theorem EncodingRow.sbc (rx ry : RegIdx) : EncodingRow.Statement (.sbc rx ry) :=
  encodingRow_of _ 0x33#8 ⟨"SBC", 0x3300#16, 0xFF00#16⟩ (List.mem_of_getElem (i := 26) (h := by decide) rfl) rfl rfl
    (by decide) rfl nofun nofun

theorem EncodingRow.inc (rx : RegIdx) : EncodingRow.Statement (.inc rx) :=
  encodingRow_of _ 0x34#8 ⟨"INC", 0x3400#16, 0xFF00#16⟩ (List.mem_of_getElem (i := 27) (h := by decide) rfl) rfl rfl
    (by decide) rfl nofun (fun _ => loNibble_joinNibbles _ _)

theorem EncodingRow.dec (rx : RegIdx) : EncodingRow.Statement (.dec rx) :=
  encodingRow_of _ 0x35#8 ⟨"DEC", 0x3500#16, 0xFF00#16⟩ (List.mem_of_getElem (i := 28) (h := by decide) rfl) rfl rfl
    (by decide) rfl nofun (fun _ => loNibble_joinNibbles _ _)

theorem EncodingRow.cmp (rx ry : RegIdx) : EncodingRow.Statement (.cmp rx ry) :=
  encodingRow_of _ 0x36#8 ⟨"CMP", 0x3600#16, 0xFF00#16⟩ (List.mem_of_getElem (i := 29) (h := by decide) rfl) rfl rfl
    (by decide) rfl nofun nofun

theorem EncodingRow.mul (rx ry : RegIdx) : EncodingRow.Statement (.mul rx ry) :=
  encodingRow_of _ 0x37#8 ⟨"MUL", 0x3700#16, 0xFF00#16⟩ (List.mem_of_getElem (i := 30) (h := by decide) rfl) rfl rfl
    (by decide) rfl nofun nofun

theorem EncodingRow.div (rx ry : RegIdx) : EncodingRow.Statement (.div rx ry) :=
  encodingRow_of _ 0x38#8 ⟨"DIV", 0x3800#16, 0xFF00#16⟩ (List.mem_of_getElem (i := 31) (h := by decide) rfl) rfl rfl
    (by decide) rfl nofun nofun

theorem EncodingRow.and (rx ry : RegIdx) : EncodingRow.Statement (.and rx ry) :=
  encodingRow_of _ 0x40#8 ⟨"AND", 0x4000#16, 0xFF00#16⟩ (List.mem_of_getElem (i := 32) (h := by decide) rfl) rfl rfl
    (by decide) rfl nofun nofun

theorem EncodingRow.or (rx ry : RegIdx) : EncodingRow.Statement (.or rx ry) :=
  encodingRow_of _ 0x41#8 ⟨"OR", 0x4100#16, 0xFF00#16⟩ (List.mem_of_getElem (i := 33) (h := by decide) rfl) rfl rfl
    (by decide) rfl nofun nofun

theorem EncodingRow.xor (rx ry : RegIdx) : EncodingRow.Statement (.xor rx ry) :=
  encodingRow_of _ 0x42#8 ⟨"XOR", 0x4200#16, 0xFF00#16⟩ (List.mem_of_getElem (i := 34) (h := by decide) rfl) rfl rfl
    (by decide) rfl nofun nofun

theorem EncodingRow.not (rx : RegIdx) : EncodingRow.Statement (.not rx) :=
  encodingRow_of _ 0x43#8 ⟨"NOT", 0x4300#16, 0xFF00#16⟩ (List.mem_of_getElem (i := 35) (h := by decide) rfl) rfl rfl
    (by decide) rfl nofun (fun _ => loNibble_joinNibbles _ _)

theorem EncodingRow.shl (rx : RegIdx) : EncodingRow.Statement (.shl rx) :=
  encodingRow_of _ 0x44#8 ⟨"SHL", 0x4400#16, 0xFF00#16⟩ (List.mem_of_getElem (i := 36) (h := by decide) rfl) rfl rfl
    (by decide) rfl nofun (fun _ => loNibble_joinNibbles _ _)

theorem EncodingRow.shr (rx : RegIdx) : EncodingRow.Statement (.shr rx) :=
  encodingRow_of _ 0x45#8 ⟨"SHR", 0x4500#16, 0xFF00#16⟩ (List.mem_of_getElem (i := 37) (h := by decide) rfl) rfl rfl
    (by decide) rfl nofun (fun _ => loNibble_joinNibbles _ _)

theorem EncodingRow.test (rx ry : RegIdx) : EncodingRow.Statement (.test rx ry) :=
  encodingRow_of _ 0x46#8 ⟨"TEST", 0x4600#16, 0xFF00#16⟩ (List.mem_of_getElem (i := 38) (h := by decide) rfl) rfl rfl
    (by decide) rfl nofun nofun

theorem EncodingRow.jmp (imm : Byte) : EncodingRow.Statement (.jmp imm) :=
  encodingRow_of _ 0x50#8 ⟨"JMP", 0x5000#16, 0xFF00#16⟩ (List.mem_of_getElem (i := 39) (h := by decide) rfl) rfl rfl
    (by decide) rfl nofun nofun

theorem EncodingRow.jmpl (rx ry : RegIdx) : EncodingRow.Statement (.jmpl rx ry) :=
  encodingRow_of _ 0x51#8 ⟨"JMPL", 0x5100#16, 0xFF00#16⟩ (List.mem_of_getElem (i := 40) (h := by decide) rfl) rfl rfl
    (by decide) rfl nofun nofun

theorem EncodingRow.jz (imm : Byte) : EncodingRow.Statement (.jz imm) :=
  encodingRow_of _ 0x52#8 ⟨"JZ", 0x5200#16, 0xFF00#16⟩ (List.mem_of_getElem (i := 41) (h := by decide) rfl) rfl rfl
    (by decide) rfl nofun nofun

theorem EncodingRow.jnz (imm : Byte) : EncodingRow.Statement (.jnz imm) :=
  encodingRow_of _ 0x53#8 ⟨"JNZ", 0x5300#16, 0xFF00#16⟩ (List.mem_of_getElem (i := 42) (h := by decide) rfl) rfl rfl
    (by decide) rfl nofun nofun

theorem EncodingRow.jc (imm : Byte) : EncodingRow.Statement (.jc imm) :=
  encodingRow_of _ 0x54#8 ⟨"JC", 0x5400#16, 0xFF00#16⟩ (List.mem_of_getElem (i := 43) (h := by decide) rfl) rfl rfl
    (by decide) rfl nofun nofun

theorem EncodingRow.jnc (imm : Byte) : EncodingRow.Statement (.jnc imm) :=
  encodingRow_of _ 0x55#8 ⟨"JNC", 0x5500#16, 0xFF00#16⟩ (List.mem_of_getElem (i := 44) (h := by decide) rfl) rfl rfl
    (by decide) rfl nofun nofun

theorem EncodingRow.jn (imm : Byte) : EncodingRow.Statement (.jn imm) :=
  encodingRow_of _ 0x56#8 ⟨"JN", 0x5600#16, 0xFF00#16⟩ (List.mem_of_getElem (i := 45) (h := by decide) rfl) rfl rfl
    (by decide) rfl nofun nofun

theorem EncodingRow.call (imm : Byte) : EncodingRow.Statement (.call imm) :=
  encodingRow_of _ 0x57#8 ⟨"CALL", 0x5700#16, 0xFF00#16⟩ (List.mem_of_getElem (i := 46) (h := by decide) rfl) rfl rfl
    (by decide) rfl nofun nofun

theorem EncodingRow.calll (rx ry : RegIdx) : EncodingRow.Statement (.calll rx ry) :=
  encodingRow_of _ 0x58#8 ⟨"CALLL", 0x5800#16, 0xFF00#16⟩ (List.mem_of_getElem (i := 47) (h := by decide) rfl) rfl rfl
    (by decide) rfl nofun nofun

theorem EncodingRow.ret : EncodingRow.Statement .ret :=
  encodingRow_of _ 0x59#8 ⟨"RET", 0x5900#16, 0xFF00#16⟩ (List.mem_of_getElem (i := 48) (h := by decide) rfl) rfl rfl
    (by decide) rfl (fun _ => rfl) nofun

theorem EncodingRow.push (rx ry : RegIdx) : EncodingRow.Statement (.push rx ry) :=
  encodingRow_of _ 0x60#8 ⟨"PUSH", 0x6000#16, 0xFF00#16⟩ (List.mem_of_getElem (i := 49) (h := by decide) rfl) rfl rfl
    (by decide) rfl nofun nofun

theorem EncodingRow.pop (rx ry : RegIdx) : EncodingRow.Statement (.pop rx ry) :=
  encodingRow_of _ 0x61#8 ⟨"POP", 0x6100#16, 0xFF00#16⟩ (List.mem_of_getElem (i := 50) (h := by decide) rfl) rfl rfl
    (by decide) rfl nofun nofun

theorem EncodingRow.print (rx : RegIdx) : EncodingRow.Statement (.print rx) :=
  encodingRow_of _ 0x70#8 ⟨"PRINT", 0x7000#16, 0xFF00#16⟩ (List.mem_of_getElem (i := 51) (h := by decide) rfl) rfl rfl
    (by decide) rfl nofun (fun _ => loNibble_joinNibbles _ _)

theorem EncodingRow.input (rx : RegIdx) : EncodingRow.Statement (.input rx) :=
  encodingRow_of _ 0x71#8 ⟨"INPUT", 0x7100#16, 0xFF00#16⟩ (List.mem_of_getElem (i := 52) (h := by decide) rfl) rfl rfl
    (by decide) rfl nofun (fun _ => loNibble_joinNibbles _ _)

theorem EncodingRow.hlt : EncodingRow.Statement .hlt :=
  encodingRow_of _ 0xFF#8 ⟨"HLT", 0xFF00#16, 0xFF00#16⟩ (List.mem_of_getElem (i := 53) (h := by decide) rfl) rfl rfl
    (by decide) rfl (fun _ => rfl) nofun

end Sys2Proof.Laws
end

