-- ==== Sys2Proof/Laws/Step.lean ====
section
/-! SUPPORT. What a step can do, said once; runs of steps; what a decoding says about its bytes. -/

namespace Sys2Proof.Machine

/-- The four things a step can do (60_exceptions.md R220). -/
theorem step_cases {s t : State} (h : step s = .next t) :
    (s.halted = true ∧ t = s) ∨
    (s.halted = false ∧ s.pc.getLsbD 0 = true ∧ t = s.takeFault .misalignedPc) ∨
    (s.halted = false ∧ s.pc.getLsbD 0 = false ∧
      ∃ i, decode s.fetchOp s.fetchArg = .instr i ∧ exec i s = .next t) ∨
    (s.halted = false ∧ s.pc.getLsbD 0 = false ∧
      ∃ op, decode s.fetchOp s.fetchArg = .invalidOpcode op ∧ t = s.takeFault .invalidOpcode) := by
  simp only [step, State.engineStep] at h
  split at h
  · rename_i h1
    cases h
    exact .inl ⟨h1, rfl⟩
  · rename_i h1
    replace h1 := Bool.eq_false_iff.mpr h1
    split at h
    · rename_i h2
      cases h
      exact .inr (.inl ⟨h1, h2, rfl⟩)
    · rename_i h2
      replace h2 := Bool.eq_false_iff.mpr h2
      simp only [State.fetchAndExecute] at h
      split at h
      · rename_i i hi
        exact .inr (.inr (.inl ⟨h1, h2, i, hi, h⟩))
      · rename_i op hop
        cases h
        exact .inr (.inr (.inr ⟨h1, h2, op, hop, rfl⟩))

theorem StepsTo_zero (s t : State) : StepsTo 0 s t ↔ t = s := Iff.rfl

/-- A run of `k + 1` steps is one step and then `k`. -/
theorem StepsTo_succ {s u : State} (h : step s = .next u) (k : Nat) (t : State) :
    StepsTo (k + 1) s t ↔ StepsTo k u t := by
  constructor
  · rintro ⟨v, hv, hk⟩
    rw [h] at hv
    cases hv
    exact hk
  · exact fun hk => ⟨u, h, hk⟩

/-- Runs join end to end. -/
theorem StepsTo_add {j k : Nat} {s t u : State} (h : StepsTo j s t) (h' : StepsTo k t u) : StepsTo (j + k) s u := by
  induction j generalizing s with
  | zero => cases h; simpa using h'
  | succ j ih =>
    obtain ⟨v, hv, hj⟩ := h
    rw [Nat.add_right_comm]
    exact ⟨v, hv, ih hj⟩

/-- A run of given length has one end. -/
theorem StepsTo_unique {k : Nat} {s t u : State} (h : StepsTo k s t) (h' : StepsTo k s u) : t = u := by
  induction k generalizing s with
  | zero => cases h; cases h'; rfl
  | succ k ih =>
    obtain ⟨v, hv, hk⟩ := h
    exact ih hk ((StepsTo_succ hv k u).mp h')

/-- A decoding's opcode byte is the instruction's, and has its shape (30_encoding.md R93, R95). -/
theorem opcode_of_decode {op arg : Byte} {i : Instr} (h : decode op arg = .instr i) :
    op = opcodeOf i ∧ shapeOfOpcode op = some i.shape := by
  unfold decode at h
  dsimp only at h
  split at h <;> simp only [Decoded.instr.injEq, reduceCtorEq] at h <;> subst h <;> exact ⟨rfl, rfl⟩

/-- A decoding's operand byte is the instruction's up to the bits its shape does not use (R93, R98). -/
theorem operand_of_decode {op arg : Byte} {i : Instr} (h : decode op arg = .instr i) :
    operandOf i =
      match i.shape with
      | .none => 0#8
      | .r => joinNibbles (hiNibble arg) 0#4
      | .ldi | .rr | .zp | .rel => arg := by
  unfold decode at h
  dsimp only at h
  split at h <;> simp only [Decoded.instr.injEq, reduceCtorEq] at h <;> subst h <;>
    simp [operandOf, Instr.shape]

end Sys2Proof.Machine
end

