-- ==== Sys2Proof/Tests/Slice0.lean ====
section
/-! SUPPORT. Tests: ill-formed words refused, each encoding decoded, one-step vectors from 95_test_vectors.md (worked by the
spec from its rules), and a state that meets the hypotheses of each statement that has some. -/

namespace Sys2Proof.Tests

-- One theorem after another: kernel evaluations that wait for each other would each hold a thread.
set_option Elab.async false

open Sys2Proof Sys2Proof.Machine Sys2Proof.Claims

/-! ### The checks of WellFormed -/

/-- 0x01 is not in the opcode list (30_encoding.md R99); its neighbours 0x00 and 0x10 are (R95). -/
theorem test_validOpcode_refuses_01 : validOpcode 0x01#8 = false ∧ validOpcode 0x00#8 = true ∧
    validOpcode 0x10#8 = true := by decide

/-- There are 202 invalid opcode values (R99). -/
theorem test_validOpcode_refuses_202 : ((List.range 256).filter fun n => !validOpcode (BitVec.ofNat 8 n)).length = 202 := by
  decide +kernel

/-- Unused bits that are not zero are refused: NOP with operand 0xAB, INC R1 with low nibble 0xF; and a word of no
instruction (R98, R99). -/
theorem test_canonicalWord_refuses_unused_bits : canonicalWord 0x00AB#16 = false ∧ canonicalWord 0x341F#16 = false ∧
    canonicalWord 0x0100#16 = false ∧ canonicalWord 0x3410#16 = true ∧ canonicalWord 0x3013#16 = true := by decide

/-- An image that runs past 0xFFFF is refused (70_reset_and_hazards.md R257). -/
theorem test_imageFits_refuses_overflow : imageFits 0xFFFF 2 = false ∧ imageFits 0xFFFE 2 = true := by decide

/-! ### Decoding: every instruction's word, written out bit by bit from 30_encoding.md R92 and R95 -/

theorem test_decode_load_immediate :
    decode 0b00000000#8 0b00000000#8 = .instr .nop ∧
    decode 0b00010000#8 0b01001000#8 = .instr (.ldi0 0x48#8) ∧
    decode 0b00010001#8 0b01001000#8 = .instr (.ldi1 0x48#8) ∧
    decode 0b00010010#8 0b01001000#8 = .instr (.ldi2 0x48#8) ∧
    decode 0b00010011#8 0b01001000#8 = .instr (.ldi3 0x48#8) ∧
    decode 0b00010100#8 0b01001000#8 = .instr (.ldi4 0x48#8) ∧
    decode 0b00010101#8 0b01001000#8 = .instr (.ldi5 0x48#8) ∧
    decode 0b00010110#8 0b01001000#8 = .instr (.ldi6 0x48#8) ∧
    decode 0b00010111#8 0b01001000#8 = .instr (.ldi7 0x48#8) ∧
    decode 0b00011000#8 0b01001000#8 = .instr (.ldi8 0x48#8) ∧
    decode 0b00011001#8 0b01001000#8 = .instr (.ldi9 0x48#8) ∧
    decode 0b00011010#8 0b01001000#8 = .instr (.ldi10 0x48#8) ∧
    decode 0b00011011#8 0b01001000#8 = .instr (.ldi11 0x48#8) ∧
    decode 0b00011100#8 0b01001000#8 = .instr (.ldi12 0x48#8) ∧
    decode 0b00011101#8 0b01001000#8 = .instr (.ldi13 0x48#8) ∧
    decode 0b00011110#8 0b01001000#8 = .instr (.ldi14 0x48#8) ∧
    decode 0b00011111#8 0b01001000#8 = .instr (.ldi15 0x48#8) := by decide

theorem test_decode_move_memory :
    decode 0b00100000#8 0b00101101#8 = .instr (.mov 2#4 13#4) ∧
    decode 0b00100001#8 0b00101101#8 = .instr (.swap 2#4 13#4) ∧
    decode 0b00100010#8 0b00101101#8 = .instr (.load 2#4 13#4) ∧
    decode 0b00100011#8 0b00101101#8 = .instr (.stor 2#4 13#4) ∧
    decode 0b00100100#8 0b11111010#8 = .instr (.loadz 0xFA#8) ∧
    decode 0b00100101#8 0b11111010#8 = .instr (.storz 0xFA#8) := by decide

theorem test_decode_arithmetic :
    decode 0b00110000#8 0b00101101#8 = .instr (.add 2#4 13#4) ∧
    decode 0b00110001#8 0b00101101#8 = .instr (.adc 2#4 13#4) ∧
    decode 0b00110010#8 0b00101101#8 = .instr (.sub 2#4 13#4) ∧
    decode 0b00110011#8 0b00101101#8 = .instr (.sbc 2#4 13#4) ∧
    decode 0b00110100#8 0b11010000#8 = .instr (.inc 13#4) ∧
    decode 0b00110101#8 0b11010000#8 = .instr (.dec 13#4) ∧
    decode 0b00110110#8 0b00101101#8 = .instr (.cmp 2#4 13#4) ∧
    decode 0b00110111#8 0b00101101#8 = .instr (.mul 2#4 13#4) ∧
    decode 0b00111000#8 0b00101101#8 = .instr (.div 2#4 13#4) := by decide

theorem test_decode_logic_shift :
    decode 0b01000000#8 0b00101101#8 = .instr (.and 2#4 13#4) ∧
    decode 0b01000001#8 0b00101101#8 = .instr (.or 2#4 13#4) ∧
    decode 0b01000010#8 0b00101101#8 = .instr (.xor 2#4 13#4) ∧
    decode 0b01000011#8 0b11010000#8 = .instr (.not 13#4) ∧
    decode 0b01000100#8 0b11010000#8 = .instr (.shl 13#4) ∧
    decode 0b01000101#8 0b11010000#8 = .instr (.shr 13#4) ∧
    decode 0b01000110#8 0b00101101#8 = .instr (.test 2#4 13#4) := by decide

theorem test_decode_control :
    decode 0b01010000#8 0b11110000#8 = .instr (.jmp 0xF0#8) ∧
    decode 0b01010001#8 0b00101101#8 = .instr (.jmpl 2#4 13#4) ∧
    decode 0b01010010#8 0b11110000#8 = .instr (.jz 0xF0#8) ∧
    decode 0b01010011#8 0b11110000#8 = .instr (.jnz 0xF0#8) ∧
    decode 0b01010100#8 0b11110000#8 = .instr (.jc 0xF0#8) ∧
    decode 0b01010101#8 0b11110000#8 = .instr (.jnc 0xF0#8) ∧
    decode 0b01010110#8 0b11110000#8 = .instr (.jn 0xF0#8) ∧
    decode 0b01010111#8 0b11110000#8 = .instr (.call 0xF0#8) ∧
    decode 0b01011000#8 0b00101101#8 = .instr (.calll 2#4 13#4) ∧
    decode 0b01011001#8 0b00000000#8 = .instr .ret := by decide

theorem test_decode_stack_io_halt :
    decode 0b01100000#8 0b00101101#8 = .instr (.push 2#4 13#4) ∧
    decode 0b01100001#8 0b00101101#8 = .instr (.pop 2#4 13#4) ∧
    decode 0b01110000#8 0b11010000#8 = .instr (.print 13#4) ∧
    decode 0b01110001#8 0b11010000#8 = .instr (.input 13#4) ∧
    decode 0b11111111#8 0b00000000#8 = .instr .hlt := by decide

/-- Unused operand bits are ignored (R98): NOP, SHR, RET, PRINT with every unused bit set. -/
theorem test_decode_ignores_unused_bits :
    decode 0b00000000#8 0b11111111#8 = .instr .nop ∧ decode 0b01000101#8 0b00011111#8 = .instr (.shr 1#4) ∧
    decode 0b01011001#8 0b11111111#8 = .instr .ret ∧ decode 0b01110000#8 0b00111111#8 = .instr (.print 3#4) := by decide

/-- Reserved opcodes next to real ones are rejected by name (R99). -/
theorem test_decode_rejects_by_name :
    decode 0x26#8 0x00#8 = .invalidOpcode 0x26#8 ∧ decode 0x39#8 0x11#8 = .invalidOpcode 0x39#8 ∧
    decode 0xFE#8 0x00#8 = .invalidOpcode 0xFE#8 := by decide

/-- The table's numbering: `IW = op ++ arg` (R91), encoded and decoded. -/
theorem test_table_word : decodeTableWord 16 0x3013 = some (.add 1#4 3#4) ∧ encode (.add 1#4 3#4) = 0x3013#16 ∧
    decodeTableWord 16 0x0100 = none := by decide

/-! ### One-step vectors -/

/-- A precondition or an expected change of a vector of 95_test_vectors.md. -/
inductive Poke where
  | r (i : RegIdx) (v : Byte)
  | m (a : Addr) (v : Byte)
  | f (z c n : Bool)
  | pc (a : Addr)
  | out (bs : List Byte)
  | inp (bs : List Byte)
  | hook
  | descending
  | halted

/-- A state with one change. -/
def poke (s : State) : Poke → State
  | .r i v => s.setReg i v
  | .m a v => s.writeMem a v
  | .f z c n => s.setFlags z c n
  | .pc a => s.setPc a
  | .out bs => { s with charOut := bs }
  | .inp bs => { s with charIn := bs }
  | .hook => { s with mmioHook := true }
  | .descending => { s with popOrder := .descending }
  | .halted => s.halt

/-- The start of a vector: after reset, an instruction's two bytes at 0x0100, `pc` there, and the preconditions. -/
def start (op arg : Byte) (before : List Poke) : State :=
  before.foldl poke ((State.reset.setPc 0x0100#16).placeWord 0x0100#16 (joinBytes op arg))

/-- Is the next state the old one with exactly the listed changes? -/
def gives (s : State) (after : List Poke) : Bool :=
  match step s with
  | .next t => decide (t = after.foldl poke s)
  | .fault _ => false
  | .refused _ => false

/-- The state after a step. -/
def after (s : State) : State :=
  match step s with
  | .next t => t
  | .fault _ => s
  | .refused _ => s

theorem test_nop_only_advances : gives (start 0x00#8 0xFF#8 [.f true true true])
    [.pc 0x0102#16] = true := by decide +kernel

theorem test_ldi7_zero_keeps_flags : gives (start 0x17#8 0x00#8 [.r 7#4 0x33#8, .f false false true])
    [.r 7#4 0x00#8, .pc 0x0102#16] = true := by decide +kernel

theorem test_ldi15_loads_x15 : gives (start 0x1F#8 0xFF#8 [])
    [.r 15#4 0xFF#8, .pc 0x0102#16] = true := by decide +kernel

theorem test_ldi0_keeps_flags : gives (start 0x10#8 0x48#8 [.f true true true])
    [.r 0#4 0x48#8, .pc 0x0102#16] = true := by decide +kernel

theorem test_mov_direction : gives (start 0x20#8 0x12#8 [.r 1#4 0x5A#8, .r 2#4 0xA5#8])
    [.r 1#4 0xA5#8, .pc 0x0102#16] = true := by decide +kernel

theorem test_mov_self : gives (start 0x20#8 0x33#8 [.r 3#4 0x77#8]) [.pc 0x0102#16] = true := by decide +kernel

theorem test_swap_two : gives (start 0x21#8 0x12#8 [.r 1#4 0x11#8, .r 2#4 0x22#8])
    [.r 1#4 0x22#8, .r 2#4 0x11#8, .pc 0x0102#16] = true := by decide +kernel

theorem test_swap_self : gives (start 0x21#8 0x11#8 [.r 1#4 0x11#8]) [.pc 0x0102#16] = true := by decide +kernel

theorem test_load_pair_wraps : gives (start 0x22#8 0x4F#8 [.r 15#4 0x00#8, .r 0#4 0x80#8, .m 0x0080#16 0x99#8])
    [.r 4#4 0x99#8, .pc 0x0102#16] = true := by decide +kernel

theorem test_load_into_its_pair : gives (start 0x22#8 0x32#8 [.r 2#4 0x12#8, .r 3#4 0x34#8, .m 0x1234#16 0xAB#8])
    [.r 3#4 0xAB#8, .pc 0x0102#16] = true := by decide +kernel

theorem test_stor_stores_rx : gives (start 0x23#8 0x12#8 [.r 1#4 0xEE#8, .r 2#4 0x12#8, .r 3#4 0x34#8])
    [.m 0x1234#16 0xEE#8, .pc 0x0102#16] = true := by decide +kernel

theorem test_stor_hooked : gives (start 0x23#8 0x12#8 [.r 1#4 0x21#8, .r 2#4 0x00#8, .r 3#4 0xFA#8, .hook])
    [.m 0x00FA#16 0x21#8, .pc 0x0102#16, .out [0x21#8]] = true := by decide +kernel

theorem test_loadz_unhooked_fb : gives (start 0x24#8 0xFB#8 [.r 0#4 0x11#8, .inp [0x7A#8]])
    [.r 0#4 0x00#8, .pc 0x0102#16] = true := by decide +kernel

theorem test_loadz_hooked_fb : gives (start 0x24#8 0xFB#8 [.m 0x00FB#16 0x99#8, .inp [0x61#8], .hook])
    [.r 0#4 0x61#8, .pc 0x0102#16, .inp []] = true := by decide +kernel

theorem test_storz_unhooked_fa : gives (start 0x25#8 0xFA#8 [.r 0#4 0x48#8])
    [.m 0x00FA#16 0x48#8, .pc 0x0102#16] = true := by decide +kernel

theorem test_storz_hooked_fb_is_plain : gives (start 0x25#8 0xFB#8 [.r 0#4 0x55#8, .hook])
    [.m 0x00FB#16 0x55#8, .pc 0x0102#16] = true := by decide +kernel

theorem test_add_wraps : gives (start 0x30#8 0x12#8 [.r 1#4 0xFF#8, .r 2#4 0x01#8])
    [.r 1#4 0x00#8, .pc 0x0102#16, .f true true false] = true := by decide +kernel

theorem test_add_ignores_carry : gives (start 0x30#8 0x12#8 [.r 1#4 0x7F#8, .r 2#4 0x01#8, .f false true false])
    [.r 1#4 0x80#8, .pc 0x0102#16, .f false false true] = true := by decide +kernel

theorem test_adc_with_carry : gives (start 0x31#8 0x02#8 [.r 0#4 0xFF#8, .r 2#4 0xFF#8, .f false true false])
    [.r 0#4 0xFF#8, .pc 0x0102#16, .f false true true] = true := by decide +kernel

theorem test_adc_without_carry : gives (start 0x31#8 0x02#8 [.r 0#4 0x12#8, .r 2#4 0x56#8])
    [.r 0#4 0x68#8, .pc 0x0102#16, .f false false false] = true := by decide +kernel

theorem test_sub_borrows : gives (start 0x32#8 0x12#8 [.r 1#4 0x03#8, .r 2#4 0x05#8])
    [.r 1#4 0xFE#8, .pc 0x0102#16, .f false true true] = true := by decide +kernel

theorem test_sub_ignores_carry : gives (start 0x32#8 0x12#8 [.r 1#4 0x42#8, .r 2#4 0x42#8, .f false true false])
    [.r 1#4 0x00#8, .pc 0x0102#16, .f true false false] = true := by decide +kernel

theorem test_sbc_whole_borrow : gives (start 0x33#8 0x12#8 [.r 1#4 0x00#8, .r 2#4 0xFF#8, .f false true false])
    [.r 1#4 0x00#8, .pc 0x0102#16, .f true true false] = true := by decide +kernel

theorem test_sbc_borrow_in : gives (start 0x33#8 0x12#8 [.r 1#4 0x05#8, .r 2#4 0x03#8, .f false true false])
    [.r 1#4 0x01#8, .pc 0x0102#16, .f false false false] = true := by decide +kernel

theorem test_inc_wraps_and_writes_c : gives (start 0x34#8 0x10#8 [.r 1#4 0xFF#8])
    [.r 1#4 0x00#8, .pc 0x0102#16, .f true true false] = true := by decide +kernel

theorem test_inc_clears_c : gives (start 0x34#8 0x10#8 [.r 1#4 0x7F#8, .f false true false])
    [.r 1#4 0x80#8, .pc 0x0102#16, .f false false true] = true := by decide +kernel

theorem test_dec_borrows : gives (start 0x35#8 0x10#8 [.r 1#4 0x00#8])
    [.r 1#4 0xFF#8, .pc 0x0102#16, .f false true true] = true := by decide +kernel

theorem test_dec_clears_c : gives (start 0x35#8 0x10#8 [.r 1#4 0x01#8, .f false true false])
    [.r 1#4 0x00#8, .pc 0x0102#16, .f true false false] = true := by decide +kernel

theorem test_cmp_below : gives (start 0x36#8 0x12#8 [.r 1#4 0x03#8, .r 2#4 0x05#8])
    [.pc 0x0102#16, .f false true true] = true := by decide +kernel

theorem test_cmp_above : gives (start 0x36#8 0x12#8 [.r 1#4 0x90#8, .r 2#4 0x05#8, .f false true false])
    [.pc 0x0102#16, .f false false true] = true := by decide +kernel

theorem test_mul_pair_wraps : gives (start 0x37#8 0xF4#8 [.r 15#4 0x03#8, .r 4#4 0x04#8, .r 0#4 0x99#8])
    [.r 15#4 0x00#8, .r 0#4 0x0C#8, .pc 0x0102#16, .f false false false] = true := by decide +kernel

theorem test_mul_ry_is_low_half : gives (start 0x37#8 0x13#8 [.r 1#4 0x10#8, .r 2#4 0xEE#8, .r 3#4 0x10#8])
    [.r 1#4 0x01#8, .r 2#4 0x00#8, .pc 0x0102#16, .f false true false] = true := by decide +kernel

theorem test_div_overwrites_divisor : gives (start 0x38#8 0x12#8 [.r 1#4 0x64#8, .r 2#4 0x07#8, .f false true false])
    [.r 1#4 0x0E#8, .r 2#4 0x02#8, .pc 0x0102#16, .f false false false] = true := by decide +kernel

theorem test_div_by_zero_keeps_flags : gives (start 0x38#8 0x01#8 [.r 0#4 0x05#8, .r 1#4 0x00#8, .f true true true])
    [.r 0#4 0x02#8, .pc 0xFFFE#16, .m 0x00FC#16 0x01#8, .m 0x00FD#16 0x00#8] = true := by decide +kernel

theorem test_and_clears_carry : gives (start 0x40#8 0x12#8 [.r 1#4 0xF0#8, .r 2#4 0x3C#8, .f false true false])
    [.r 1#4 0x30#8, .pc 0x0102#16, .f false false false] = true := by decide +kernel

theorem test_or_sets_n : gives (start 0x41#8 0x12#8 [.r 1#4 0x80#8, .r 2#4 0x01#8, .f false true false])
    [.r 1#4 0x81#8, .pc 0x0102#16, .f false false true] = true := by decide +kernel

theorem test_xor_self : gives (start 0x42#8 0x44#8 [.r 4#4 0xA7#8, .f false true true])
    [.r 4#4 0x00#8, .pc 0x0102#16, .f true false false] = true := by decide +kernel

theorem test_not_complements : gives (start 0x43#8 0x10#8 [.r 1#4 0x5A#8])
    [.r 1#4 0xA5#8, .pc 0x0102#16, .f false false true] = true := by decide +kernel

theorem test_shl_carry_in : gives (start 0x44#8 0x10#8 [.r 1#4 0x81#8, .f false true false])
    [.r 1#4 0x03#8, .pc 0x0102#16, .f false true false] = true := by decide +kernel

theorem test_shl_carry_out : gives (start 0x44#8 0x10#8 [.r 1#4 0x80#8])
    [.r 1#4 0x00#8, .pc 0x0102#16, .f true true false] = true := by decide +kernel

theorem test_shr_carry_in : gives (start 0x45#8 0x10#8 [.r 1#4 0x81#8, .f false true false])
    [.r 1#4 0xC0#8, .pc 0x0102#16, .f false true true] = true := by decide +kernel

theorem test_shr_carry_out : gives (start 0x45#8 0x10#8 [.r 1#4 0x01#8])
    [.r 1#4 0x00#8, .pc 0x0102#16, .f true true false] = true := by decide +kernel

theorem test_test_keeps_carry : gives (start 0x46#8 0x12#8 [.r 1#4 0xF0#8, .r 2#4 0x0F#8, .f false true false])
    [.pc 0x0102#16, .f true true false] = true := by decide +kernel

theorem test_jmp_back_wraps : gives (start 0x50#8 0x04#8 [.pc 0x0000#16, .m 0x0000#16 0x50#8, .m 0x0001#16 0xFC#8])
    [.pc 0xFFFE#16] = true := by decide +kernel

theorem test_jmp_forward_odd : gives (start 0x50#8 0x7F#8 []) [.pc 0x0181#16] = true := by decide +kernel

theorem test_jmpl_two_registers : gives (start 0x51#8 0x27#8 [.r 2#4 0x12#8, .r 7#4 0x34#8])
    [.pc 0x1234#16] = true := by decide +kernel

theorem test_jz_taken : gives (start 0x52#8 0xF0#8 [.f true false false]) [.pc 0x00F2#16] = true := by decide +kernel

theorem test_jz_not_taken : gives (start 0x52#8 0x04#8 []) [.pc 0x0102#16] = true := by decide +kernel

theorem test_jnz_taken : gives (start 0x53#8 0x04#8 []) [.pc 0x0106#16] = true := by decide +kernel

theorem test_jnz_not_taken : gives (start 0x53#8 0x04#8 [.f true false false])
    [.pc 0x0102#16] = true := by decide +kernel

theorem test_jc_taken : gives (start 0x54#8 0x04#8 [.f false true false]) [.pc 0x0106#16] = true := by decide +kernel

theorem test_jc_not_taken : gives (start 0x54#8 0x04#8 []) [.pc 0x0102#16] = true := by decide +kernel

theorem test_jnc_taken : gives (start 0x55#8 0x04#8 []) [.pc 0x0106#16] = true := by decide +kernel

theorem test_jnc_not_taken : gives (start 0x55#8 0x04#8 [.f false true false])
    [.pc 0x0102#16] = true := by decide +kernel

theorem test_jn_taken : gives (start 0x56#8 0x04#8 [.f false false true]) [.pc 0x0106#16] = true := by decide +kernel

theorem test_jn_not_taken : gives (start 0x56#8 0x04#8 []) [.pc 0x0102#16] = true := by decide +kernel

theorem test_call_pushes_big_endian : gives (start 0x57#8 0x06#8 [.r 14#4 0x04#8, .r 15#4 0x00#8])
    [.r 14#4 0x03#8, .r 15#4 0xFE#8, .pc 0x0108#16, .m 0x03FE#16 0x01#8, .m 0x03FF#16 0x02#8] = true := by decide +kernel

theorem test_call_stack_wraps : gives (start 0x57#8 0x06#8 [.r 14#4 0x00#8, .r 15#4 0x01#8])
    [.r 14#4 0xFF#8, .r 15#4 0xFF#8, .pc 0x0108#16, .m 0xFFFF#16 0x01#8, .m 0x0000#16 0x02#8] = true := by decide +kernel

theorem test_calll_reads_target_late : gives (start 0x58#8 0xEF#8 [.r 14#4 0x04#8, .r 15#4 0x00#8])
    [.r 14#4 0x03#8, .r 15#4 0xFE#8, .pc 0x03FE#16, .m 0x03FE#16 0x01#8, .m 0x03FF#16 0x02#8] = true := by decide +kernel

theorem test_calll_two_registers : gives (start 0x58#8 0x23#8 [.r 14#4 0x04#8, .r 15#4 0x00#8, .r 2#4 0x30#8, .r 3#4 0x00#8])
    [.r 14#4 0x03#8, .r 15#4 0xFE#8, .pc 0x3000#16, .m 0x03FE#16 0x01#8, .m 0x03FF#16 0x02#8] = true := by decide +kernel

theorem test_ret_pops_big_endian : gives (start 0x59#8 0x00#8 [.r 14#4 0x03#8, .r 15#4 0xFE#8, .m 0x03FE#16 0x01#8, .m 0x03FF#16 0x02#8])
    [.r 14#4 0x04#8, .r 15#4 0x00#8, .pc 0x0102#16] = true := by decide +kernel

theorem test_ret_stack_wraps : gives (start 0x59#8 0x00#8 [.r 14#4 0xFF#8, .r 15#4 0xFF#8, .m 0xFFFF#16 0x12#8, .m 0x0000#16 0x34#8])
    [.r 14#4 0x00#8, .r 15#4 0x01#8, .pc 0x1234#16] = true := by decide +kernel

theorem test_push_range : gives (start 0x60#8 0x13#8 [.r 14#4 0x04#8, .r 15#4 0x00#8, .r 1#4 0x11#8, .r 2#4 0x22#8, .r 3#4 0x33#8])
    [.r 14#4 0x03#8, .r 15#4 0xFD#8, .pc 0x0102#16, .m 0x03FD#16 0x33#8, .m 0x03FE#16 0x22#8, .m 0x03FF#16 0x11#8] = true := by decide +kernel

theorem test_push_range_through_sp : gives (start 0x60#8 0xE1#8 [.r 14#4 0x04#8, .r 15#4 0x00#8, .r 0#4 0xA0#8, .r 1#4 0xA1#8])
    [.r 14#4 0x03#8, .r 15#4 0xFC#8, .pc 0x0102#16, .m 0x03FC#16 0xA1#8, .m 0x03FD#16 0xA0#8, .m 0x03FE#16 0x00#8, .m 0x03FF#16 0x04#8] = true := by decide +kernel

theorem test_pop_ascending_through_sp : gives (start 0x61#8 0xE1#8 [.r 14#4 0x03#8, .r 15#4 0xFC#8, .m 0x03FC#16 0xA1#8, .m 0x03FD#16 0xA0#8, .m 0x03FE#16 0x00#8, .m 0x03FF#16 0x04#8])
    [.r 0#4 0x00#8, .r 1#4 0x04#8, .r 14#4 0x04#8, .r 15#4 0x00#8, .pc 0x0102#16] = true := by decide +kernel

theorem test_pop_descending : gives (start 0x61#8 0x13#8 [.r 14#4 0x03#8, .r 15#4 0xFD#8, .m 0x03FD#16 0x33#8, .m 0x03FE#16 0x22#8, .m 0x03FF#16 0x11#8, .descending])
    [.r 1#4 0x11#8, .r 2#4 0x22#8, .r 3#4 0x33#8, .r 14#4 0x04#8, .r 15#4 0x00#8, .pc 0x0102#16] = true := by decide +kernel

theorem test_print_outputs : gives (start 0x70#8 0x3F#8 [.r 3#4 0x41#8])
    [.pc 0x0102#16, .out [0x41#8]] = true := by decide +kernel

theorem test_input_takes_a_byte : gives (start 0x71#8 0x30#8 [.inp [0x80#8], .f true true false])
    [.r 3#4 0x80#8, .pc 0x0102#16, .inp [], .f false true true] = true := by decide +kernel

theorem test_input_nothing_ready : gives (start 0x71#8 0x30#8 [.r 3#4 0x77#8, .f false true true])
    [.r 3#4 0x00#8, .pc 0x0102#16, .f true true false] = true := by decide +kernel

theorem test_hlt_stays : gives (start 0xFF#8 0x00#8 [.f true true true])
    [.pc 0x0100#16, .halted] = true := by decide +kernel

theorem test_invalid_opcode : gives (start 0x01#8 0xAB#8 [.r 0#4 0x77#8])
    [.r 0#4 0x01#8, .pc 0xFFFE#16, .m 0x00FC#16 0x01#8, .m 0x00FD#16 0x00#8] = true := by decide +kernel

theorem test_invalid_opcode_keeps_flags : gives (start 0xFE#8 0x00#8 [.f true true true])
    [.r 0#4 0x01#8, .pc 0xFFFE#16, .m 0x00FC#16 0x01#8, .m 0x00FD#16 0x00#8] = true := by decide +kernel

theorem test_invalid_opcode_vector : gives (start 0x72#8 0x00#8 [.m 0x00FE#16 0x03#8, .m 0x00FF#16 0x00#8])
    [.r 0#4 0x01#8, .pc 0x0300#16, .m 0x00FC#16 0x01#8, .m 0x00FD#16 0x00#8] = true := by decide +kernel

theorem test_misaligned_pc : gives (start 0x00#8 0x00#8 [.pc 0xFFFF#16])
    [.r 0#4 0x03#8, .pc 0xFFFE#16, .m 0x00FC#16 0xFF#8, .m 0x00FD#16 0xFF#8] = true := by decide +kernel

theorem test_halted_does_nothing : gives (start 0x00#8 0x00#8 [.pc 0x0101#16, .halted]) [] = true := by decide +kernel

/-- The host's placing of a word: the very next step runs it, from reset too. -/
theorem test_withFetchWord : gives (State.reset.withFetchWord 16 0x1248) [.r 2#4 0x48#8, .pc 0x0202#16] = true := by
  decide +kernel

/-- A halted machine with an odd `pc` is made ready for it. -/
theorem test_withFetchWord_ready :
    gives ((State.reset.setPc 0x0301#16).halt.withFetchWord 16 0x1248) [.r 2#4 0x48#8, .pc 0x0302#16] = true := by
  decide +kernel

/-- Unlisted cells read as reset left them; a write of that byte removes the entry (10_state.md R43; log 10). -/
theorem test_memory_canonical : (State.reset.writeMem 0xFFFE#16 0x12#8).mem = [(0xFFFE, 0x12#8)] ∧
    ((State.reset.writeMem 0xFFFE#16 0x12#8).writeMem 0xFFFE#16 0xFF#8).mem = [] := by decide

/-- Run stops on HLT and counts its step (70_reset_and_hazards.md R259): image `12 48 FF 00` runs 2 steps. -/
theorem test_run_counts_hlt :
    (match State.hostRun 5 (start 0x12#8 0x48#8 [.m 0x0102#16 0xFF#8]) with
      | .next (t, n) => decide (n = 2 ∧ t.halted = true ∧ t.pc = 0x0102#16)
      | .fault _ => false
      | .refused _ => false) = true := by decide +kernel

/-- RET's accesses in the order of 20_memory.md R61: two fetches, then `sp` and `sp + 1`. -/
theorem test_events_ret :
    (start 0x59#8 0x00#8 [.r 14#4 0x03#8, .r 15#4 0xFE#8, .m 0x03FE#16 0x01#8, .m 0x03FF#16 0x02#8]).stepEvents =
      [.memRead 0x0100#16 0x59#8, .memRead 0x0101#16 0x00#8, .memRead 0x03FE#16 0x01#8, .memRead 0x03FF#16 0x02#8] := by
  decide +kernel

/-- A hooked store writes its cell, then outputs (20_memory.md R72); PUSH writes downwards (R61). -/
theorem test_events_storz_hooked_and_push :
    (start 0x25#8 0xFA#8 [.hook, .r 0#4 0x48#8]).stepEvents =
      [.memRead 0x0100#16 0x25#8, .memRead 0x0101#16 0xFA#8, .memWrite 0x00FA#16 0x48#8, .charOut 0x48#8] ∧
    (start 0x60#8 0x12#8 [.r 14#4 0x04#8, .r 1#4 0x11#8, .r 2#4 0x22#8]).stepEvents =
      [.memRead 0x0100#16 0x60#8, .memRead 0x0101#16 0x12#8, .memWrite 0x03FF#16 0x11#8, .memWrite 0x03FE#16 0x22#8] := by
  decide +kernel

/-! ### States that meet the hypotheses of the statements -/

/-- `ADD R1, R2` about to run, on a memory that holds it. -/
def atAdd : State := start 0x30#8 0x12#8 [.r 1#4 0xFF#8, .r 2#4 0x01#8]

/-- EncoderReadsBackCanonicalWords: a canonical and another word that decode. -/
theorem witness_EncoderReadsBackCanonicalWords :
    decodeWord 0x3410#16 = .instr (.inc 1#4) ∧ canonicalWord 0x3410#16 = true ∧
    decodeWord 0x341F#16 = .instr (.inc 1#4) ∧ canonicalWord 0x341F#16 = false := by decide

/-- OpcodesOutsideTheTableRaiseInvalidOpcode: a step that fetches an invalid opcode; the ends of its ranges. -/
theorem witness_OpcodesOutsideTheTableRaiseInvalidOpcode :
    ((start 0xFE#8 0x00#8 []).halted = false ∧ (start 0xFE#8 0x00#8 []).pc.getLsbD 0 = false ∧
      invalidOpcodeValue (start 0xFE#8 0x00#8 []).fetchOp.toNat = true) ∧
    ([0x01, 0x0F, 0x26, 0x2F, 0x39, 0x3F, 0x47, 0x4F, 0x5A, 0x5F, 0x62, 0x6F, 0x72, 0xFE].all invalidOpcodeValue = true) ∧
    ([0x00, 0x10, 0x25, 0x30, 0x38, 0x40, 0x46, 0x50, 0x59, 0x60, 0x61, 0x70, 0x71, 0xFF].any invalidOpcodeValue = false) := by
  decide +kernel

/-- WordsDecodeByTheirTableRow: a row of the table and a word that matches it and decodes. -/
theorem witness_WordsDecodeByTheirTableRow :
    (⟨"INC", 0x3400#16, 0xFF00#16⟩ : OpRow) ∈ opcodeTable ∧
    OpRow.matchesWord ⟨"INC", 0x3400#16, 0xFF00#16⟩ 0x341F#16 = true ∧
    decodeWord 0x341F#16 = .instr (.inc 1#4) := by decide +kernel

/-- StepRunsTheDecodedInstruction. -/
theorem witness_StepRunsTheDecodedInstruction :
    atAdd.halted = false ∧ atAdd.pc.getLsbD 0 = false ∧
    decode (atAdd.readMem atAdd.pc) (atAdd.readMem (atAdd.pc + 1#16)) = .instr (.add 1#4 2#4) := by decide +kernel

/-- HaltedMachineDoesNothing: halted with `pc` odd, and not halted. -/
theorem witness_HaltedMachineDoesNothing :
    (start 0x00#8 0x00#8 [.pc 0x0101#16, .halted]).halted = true ∧ atAdd.halted = false := by decide +kernel

/-- OddPcTakesMisalignedPc, at the last address. -/
theorem witness_OddPcTakesMisalignedPc :
    (State.reset.setPc 0xFFFF#16).halted = false ∧ (State.reset.setPc 0xFFFF#16).pc.getLsbD 0 = true := by decide +kernel

/-- An odd vector and an odd `pc`. -/
def atOddVector : State := start 0x00#8 0x00#8 [.pc 0x0101#16, .m 0x00FE#16 0x03#8, .m 0x00FF#16 0x01#8]

/-- OddVectorRepeatsForEver. -/
theorem witness_OddVectorRepeatsForEver :
    atOddVector.halted = false ∧ atOddVector.pc.getLsbD 0 = true ∧ atOddVector.faultVector.getLsbD 0 = true := by
  decide +kernel

/-- `DIV R0, R1` with `R1 = 0`, the default handler in place. -/
def atDivZero : State := start 0x38#8 0x01#8 [.r 0#4 0x05#8]

/-- UnhandledFaultHaltsInTwoSteps, its three clauses. -/
theorem witness_UnhandledFaultHaltsInTwoSteps :
    (DefaultHandler (State.reset.setPc 0x0201#16) ∧ (State.reset.setPc 0x0201#16).halted = false ∧
      (State.reset.setPc 0x0201#16).pc.getLsbD 0 = true) ∧
    (DefaultHandler (start 0x01#8 0xAB#8 []) ∧ AboutToFetchInvalid (start 0x01#8 0xAB#8 [])) ∧
    (DefaultHandler atDivZero ∧ AboutToRun (.div 0#4 1#4) atDivZero ∧ atDivZero.reg 1#4 = 0x00#8) := by
  unfold DefaultHandler AboutToFetchInvalid AboutToRun
  decide +kernel

/-- OnlyHltHaltsAndNoStepResumes: a step that halts, and a step of a halted machine. -/
theorem witness_OnlyHltHaltsAndNoStepResumes :
    (step (start 0xFF#8 0x00#8 []) = .next (after (start 0xFF#8 0x00#8 [])) ∧ (start 0xFF#8 0x00#8 []).halted = false ∧
      (after (start 0xFF#8 0x00#8 [])).halted = true) ∧
    (step (start 0xFF#8 0x00#8 [.halted]) = .next (after (start 0xFF#8 0x00#8 [.halted])) ∧
      (start 0xFF#8 0x00#8 [.halted]).halted = true) := ⟨⟨rfl, rfl, rfl⟩, rfl, rfl⟩

/-- `STOR R1, R2` to 0x0102, just behind the instruction, on a memory in canonical form. -/
def atStor : State := start 0x23#8 0x12#8 [.r 1#4 0x5A#8, .r 2#4 0x01#8, .r 3#4 0x02#8]

/-- StepKeepsMemoryCanonical. -/
theorem witness_StepKeepsMemoryCanonical :
    Memory.wf atStor.mem = true ∧ step atStor = .next (after atStor) ∧ (after atStor).mem ≠ atStor.mem := by
  refine ⟨by decide +kernel, rfl, by decide +kernel⟩

/-- A hooked `LOADZ $FB` with input pending, and a hooked `STORZ $FA`. -/
def atHookedLoad : State := start 0x24#8 0xFB#8 [.hook, .inp [0x61#8, 0x62#8]]

/-- StepKeepsSetupAndExtendsTraces, EventsAccountForTheStep: steps with an output and with an input event. -/
theorem witness_EventsAccountForTheStep :
    (step (start 0x25#8 0xFA#8 [.hook, .r 0#4 0x48#8]) = .next (after (start 0x25#8 0xFA#8 [.hook, .r 0#4 0x48#8])) ∧
      outputsOf (start 0x25#8 0xFA#8 [.hook, .r 0#4 0x48#8]).stepEvents = [0x48#8]) ∧
    (step atHookedLoad = .next (after atHookedLoad) ∧ inputRequests atHookedLoad.stepEvents = 1 ∧
      (after atHookedLoad).charIn = [0x62#8]) := by
  refine ⟨⟨rfl, by decide +kernel⟩, rfl, by decide +kernel, by decide +kernel⟩

/-- EventsAccountForTheStep, its clauses on the order of accesses: POP of a range of one and of sixteen registers, PUSH,
RET, DIV by zero and a hooked load about to run; an invalid opcode about to be fetched. -/
theorem witness_EventsAccountForTheStep_order :
    AboutToRun (.pop 3#4 3#4) (start 0x61#8 0x33#8 []) ∧ AboutToRun (.pop 2#4 1#4) (start 0x61#8 0x21#8 []) ∧
    AboutToRun (.push 14#4 1#4) (start 0x60#8 0xE1#8 []) ∧ AboutToRun .ret (start 0x59#8 0x00#8 []) ∧
    AboutToRun (.div 0#4 1#4) atDivZero ∧ AboutToRun (.loadz 0xFB#8) atHookedLoad ∧
    AboutToFetchInvalid (start 0x01#8 0xAB#8 []) := by
  unfold AboutToRun AboutToFetchInvalid
  decide +kernel

/-- InvalidOpcodeStepTakesOnlyTheFault: the lowest and the highest invalid opcode about to be fetched, flags set. -/
theorem witness_InvalidOpcodeStepTakesOnlyTheFault :
    AboutToFetchInvalid (start 0x01#8 0xAB#8 [.f true true true]) ∧
    AboutToFetchInvalid (start 0xFE#8 0x00#8 [.f true true true]) := by
  unfold AboutToFetchInvalid
  decide +kernel

/-- OnlyInputDependsOnTheEnvironment: `LOADZ $FB` with the hook off. -/
theorem witness_OnlyInputDependsOnTheEnvironment :
    (start 0x24#8 0xFB#8 []).mmioHook = false ∧ (∀ rx, Instr.loadz 0xFB#8 ≠ .input rx) ∧
    exec (.loadz 0xFB#8) (start 0x24#8 0xFB#8 []) = .next (after (start 0x24#8 0xFB#8 [])) :=
  ⟨rfl, fun _ h => (nomatch h), rfl⟩

/-- FlagsChangeOnlyWhereTheTableSays and RegistersChangeOnlyWhereTheTableSays: an instruction of each kind. -/
theorem witness_FlagsChangeOnlyWhereTheTableSays :
    (flagUse (.mov 1#4 2#4) = .none ∧ exec (.mov 1#4 2#4) atAdd = .next ((atAdd.setReg 1#4 0x01#8).advance)) ∧
    (flagUse (.test 1#4 2#4) = .zn ∧ exec (.test 1#4 2#4) atAdd = .next ((atAdd.setZN 0x01#8).advance)) ∧
    (exec (.div 0#4 1#4) atDivZero = .next (atDivZero.takeFault .divZero) ∧ atDivZero.reg 1#4 = 0x00#8) :=
  ⟨⟨rfl, rfl⟩, ⟨rfl, rfl⟩, rfl, rfl⟩

/-- ResetGivesTheSpecValues: both ways to be reset. -/
theorem witness_ResetGivesTheSpecValues :
    (∃ t, t = State.reset ∨ t = atAdd.hostReset) ∧ atAdd.hostReset.regs = State.reset.regs ∧ atAdd ≠ atAdd.hostReset :=
  ⟨⟨State.reset, .inl rfl⟩, rfl, by decide +kernel⟩

/-- EmptyMachineRunsToTheBackstop: the ends of its range of `k`. -/
theorem witness_EmptyMachineRunsToTheBackstop : 0 ≤ 32511 ∧ 32511 ≤ 32511 ∧ 0x0200 + 2 * 32511 = 0xFFFE := by decide

/-- LoadProgramCopiesTheImage: an image that just fits, and the same image one cell higher. -/
theorem witness_LoadProgramCopiesTheImage :
    (0xFFFE + [0x12#8, 0x34#8].length ≤ 65536 ∧ 65536 < 0xFFFF + [0x12#8, 0x34#8].length) ∧
    (match State.reset.loadProgram [0x12#8, 0x34#8] 0xFFFE with
      | .next t => decide (t.mem = [(0xFFFE, 0x12#8), (0xFFFF, 0x34#8)])
      | .fault _ => false
      | .refused _ => false) = true := by decide +kernel

/-- RunCountsTheStepsThatRan: a run that stops short of its budget, with a step that ran. -/
theorem witness_RunCountsTheStepsThatRan :
    State.hostRun 3 (start 0xFF#8 0x00#8 []) = .next ((start 0xFF#8 0x00#8 []).halt, 1) ∧
    StepsTo 0 (start 0xFF#8 0x00#8 []) (start 0xFF#8 0x00#8 []) := ⟨rfl, rfl⟩

/-- LdiLoadsItsRegister: the first and the last of its instructions. -/
theorem witness_LdiLoadsItsRegister :
    decode (0x10#8 + (0#4).setWidth 8) 0x48#8 = .instr (.ldi0 0x48#8) ∧
    decode (0x10#8 + (15#4).setWidth 8) 0x48#8 = .instr (.ldi15 0x48#8) := by decide

/-- LoadsReadMemoryOrTheHookedPort: its clauses by the hook, the address, the port and the pending input; the two
neighbours of the hooked address are plain. -/
theorem witness_LoadsReadMemoryOrTheHookedPort :
    (¬ (atAdd.mmioHook = true ∧ zeroPageAddr 0xFB#8 = 0x00FB#16)) ∧
    (¬ (atHookedLoad.mmioHook = true ∧ zeroPageAddr 0xFA#8 = 0x00FB#16)) ∧
    (¬ (atHookedLoad.mmioHook = true ∧ zeroPageAddr 0xFC#8 = 0x00FB#16)) ∧
    (atHookedLoad.mmioHook = true ∧ zeroPageAddr 0xFB#8 = 0x00FB#16 ∧ atHookedLoad.charInAttached = true ∧
      atHookedLoad.charIn = 0x61#8 :: [0x62#8]) ∧
    ((start 0x24#8 0xFB#8 [.hook]).mmioHook = true ∧ (start 0x24#8 0xFB#8 [.hook]).charInAttached = true ∧
      (start 0x24#8 0xFB#8 [.hook]).charIn = []) ∧
    (({ atHookedLoad with charInAttached := false } : State).mmioHook = true ∧
      ({ atHookedLoad with charInAttached := false } : State).charInAttached = false) := by decide +kernel

/-- A load from the hooked address without a port gives 0 and consumes nothing (10_state.md R39). -/
theorem witness_load_without_port :
    gives { atHookedLoad with charInAttached := false } [.r 0#4 0x00#8, .pc 0x0102#16] = true := by decide +kernel

/-- StoresWriteTheirCell: the hooked address with the port, and its neighbour. -/
theorem witness_StoresWriteTheirCell :
    ((start 0x25#8 0xFA#8 [.hook]).mmioHook = true ∧ zeroPageAddr 0xFA#8 = 0x00FA#16 ∧
      (start 0x25#8 0xFA#8 [.hook]).charOutAttached = true) ∧
    ¬ ((start 0x25#8 0xFB#8 [.hook]).mmioHook = true ∧ zeroPageAddr 0xFB#8 = 0x00FA#16) := by decide +kernel

/-- DivWritesQuotientAndRemainder: the divisor is not 0; DivByZeroTakesDivZero: it is. -/
theorem witness_DivWritesQuotientAndRemainder : atAdd.reg 2#4 ≠ 0x00#8 ∧ atDivZero.reg 1#4 = 0x00#8 := by decide +kernel

/-- DivByZeroTakesDivZero. -/
theorem witness_DivByZeroTakesDivZero :
    atDivZero.reg 1#4 = 0x00#8 ∧ exec (.div 0#4 1#4) atDivZero = .next (atDivZero.takeFault .divZero) :=
  ⟨by decide +kernel, rfl⟩

/-- CarryChainsAreSixteenBitArithmetic: four distinct registers. -/
theorem witness_CarryChainsAreSixteenBitArithmetic : [0#4, 1#4, 2#4, 3#4].Nodup := by decide

/-- LogicOperations, ShiftsRotateThroughCarry: the ends of the range of bit numbers. -/
theorem witness_ShiftsRotateThroughCarry : 0 < 8 ∧ 7 < 8 ∧ ¬ 8 < 8 := by decide

/-- ShiftChainsAreSixteenBitShifts: two distinct registers and a clear carry. -/
theorem witness_ShiftChainsAreSixteenBitShifts : 1#4 ≠ 2#4 ∧ atAdd.c = false := by decide +kernel

/-- CallThenRetReturns: its two forms. -/
theorem witness_CallThenRetReturns :
    ((∃ imm, Instr.call 0x06#8 = .call imm) ∨ (∃ rx ry, Instr.call 0x06#8 = .calll rx ry)) ∧
    ((∃ imm, Instr.calll 14#4 15#4 = .call imm) ∨ (∃ rx ry, Instr.calll 14#4 15#4 = .calll rx ry)) :=
  ⟨.inl ⟨_, rfl⟩, .inr ⟨_, _, rfl⟩⟩

/-- PushStoresTheRangeDownwards: the ends of the range of `k` for a range of one and of sixteen registers. -/
theorem witness_PushStoresTheRangeDownwards :
    0 ≤ (3#4 - 3#4).toNat ∧ 15 ≤ (1#4 - 2#4).toNat ∧ ¬ 16 ≤ (1#4 - 2#4).toNat := by decide

/-- PopLoadsTheRangeUpwards, PushThenPopObeysTheStackLaws: either order, a register of the range that is not 14 or 15, at
the first and the last position; a range of one register. -/
theorem witness_PushThenPopObeysTheStackLaws :
    (atAdd.popOrder = .ascending ∧ 0 ≤ (1#4 - 14#4).toNat ∧ 3 ≤ (1#4 - 14#4).toNat ∧
      14#4 + BitVec.ofNat 4 0 ∈ [14#4, 15#4] ∧ 14#4 + BitVec.ofNat 4 3 ∉ [14#4, 15#4]) ∧
    ((start 0x61#8 0x13#8 [.descending]).popOrder = .descending ∧ 2 ≤ (3#4 - 1#4).toNat ∧
      3#4 - BitVec.ofNat 4 0 ∉ [14#4, 15#4] ∧ 3#4 - BitVec.ofNat 4 2 ∉ [14#4, 15#4]) ∧ (5#4 : RegIdx) = 5#4 := by
  decide +kernel

/-- InputTakesAByteWithoutWaiting: its three clauses. -/
theorem witness_InputTakesAByteWithoutWaiting :
    ({ atAdd with charInAttached := false } : State).charInAttached = false ∧
    (atAdd.charInAttached = true ∧ atAdd.charIn = []) ∧
    (atHookedLoad.charInAttached = true ∧ atHookedLoad.charIn = 0x61#8 :: [0x62#8]) := by decide +kernel

end Sys2Proof.Tests
end

section
/-! SUPPORT. What an instruction can do, said once over all 54 constructors: each has one of eighteen effects, listed with
the flags, the registers and the port events that the tables of R30, R23 and R61 give it. The statements about the
state follow by a case split over the effects. -/

namespace Sys2Proof.Machine

/-- `Effect s f rs es t`: from `s` to `t` by an operation that may write the flags `f` (10_state.md R30) and the
registers `rs` (R23), with the data events `es` (20_memory.md R61). -/
inductive Effect (s : State) : FlagUse → List RegIdx → List PortEvent → State → Prop
  /-- NOP, the jumps and the branches. -/
  | setPc (v : Addr) : Effect s .none [] [] (s.setPc v)
  /-- LDIn and MOV. -/
  | setOne (r : RegIdx) (v : Byte) : Effect s .none [r] [] (s.loadImmediate r v)
  | swap (rx ry : RegIdx) : Effect s .none [rx, ry] [] ((s.setReg rx (s.reg ry)).setReg ry (s.reg rx)).advance
  /-- LOAD and LOADZ. -/
  | load (rd : RegIdx) (a : Addr) :
      Effect s .none [rd] (s.loadEvents a) ((s.afterLoad a).setReg rd (s.loadByte a)).advance
  /-- STOR and STORZ. -/
  | store (a : Addr) (v : Byte) : Effect s .none [] (s.storeEvents a v) (s.storeByte a v).advance
  /-- The arithmetic, logic and shift instructions with one byte of result. -/
  | alu (rd : RegIdx) (r : AluResult) : Effect s .zcn [rd] [] (s.finishAlu rd r)
  | compare (r : AluResult) : Effect s .zcn [] [] (s.finishCompare r)
  | test (v : Byte) : Effect s .zn [] [] (s.setZN v).advance
  | mul (rx : RegIdx) (p : Addr) :
      Effect s .zcn [rx, nx rx] [] (((s.setReg rx (hiByte p)).setReg (nx rx) (loByte p)).setMulFlags p).advance
  | divide (rx ry : RegIdx) : Effect s .zcn [rx, nx rx] [] (s.divide rx ry)
  /-- DIV by zero: a row of the flag writers that writes no flag. -/
  | fault (code : FaultCode) : Effect s .zcn [0#4] s.faultEvents (s.takeFault code)
  /-- CALL and CALLL. -/
  | call (v : Addr) : Effect s .none [14#4, 15#4] s.pushReturnEvents (s.pushReturn.setPc v)
  | ret : Effect s .none [14#4, 15#4] s.popReturnEvents s.popReturn
  | push (rs : List RegIdx) : Effect s .none [14#4, 15#4] (s.pushEvents rs s.sp) (s.pushRegs rs).advance
  | pop (rx ry : RegIdx) :
      Effect s .none (regRange rx ry ++ [14#4, 15#4]) (s.popEvents (popRange s.popOrder rx ry) s.sp)
        (s.popRegs (popRange s.popOrder rx ry)).advance
  | print (v : Byte) : Effect s .none [] (s.charOutEvents v) (s.putChar v).advance
  | input (rd : RegIdx) :
      Effect s .zn [rd] s.charInEvents ((s.takeChar.setReg rd s.charInByte).setZN s.charInByte).advance
  | halt : Effect s .none [] [] s.halt

/-- DIV by zero is fault entry (41_arithmetic.md R148). -/
theorem exec_div_of_zero {s : State} {ry : RegIdx} (h : s.reg ry = 0x00#8) (rx : RegIdx) :
    exec (.div rx ry) s = .next (s.takeFault .divZero) :=
  congrArg Host.Outcome.next (if_pos h)

/-- DIV by a divisor that is not zero (41_arithmetic.md R148). -/
theorem exec_div_of_ne_zero {s : State} {ry : RegIdx} (h : s.reg ry ≠ 0x00#8) (rx : RegIdx) :
    exec (.div rx ry) s = .next (s.divide rx ry) :=
  congrArg Host.Outcome.next (if_neg h)

/-- Every instruction goes on to a next state, by the effect that its rows of the tables name. -/
theorem exec_effect (i : Instr) (s : State) :
    ∃ t, exec i s = .next t ∧ Effect s (flagUse i) (writtenRegs s i) (s.dataEvents i) t := by
  cases i with
  | nop | jmp | jmpl | jz | jnz | jc | jnc | jn => exact ⟨_, rfl, .setPc _⟩
  | ldi0 | ldi1 | ldi2 | ldi3 | ldi4 | ldi5 | ldi6 | ldi7 | ldi8 | ldi9 | ldi10 | ldi11 | ldi12 | ldi13 | ldi14
  | ldi15 | mov => exact ⟨_, rfl, .setOne _ _⟩
  | swap => exact ⟨_, rfl, .swap _ _⟩
  | load | loadz => exact ⟨_, rfl, .load _ _⟩
  | stor | storz => exact ⟨_, rfl, .store _ _⟩
  | add | adc | sub | sbc | inc | dec | and | or | xor | not | shl | shr => exact ⟨_, rfl, .alu _ _⟩
  | cmp => exact ⟨_, rfl, .compare _⟩
  | test => exact ⟨_, rfl, .test _⟩
  | mul => exact ⟨_, rfl, .mul _ _⟩
  | div rx ry =>
    by_cases h : s.reg ry = 0x00#8
    · rw [show writtenRegs s (.div rx ry) = [0#4] from if_pos h,
        show s.dataEvents (.div rx ry) = s.faultEvents from if_pos h]
      exact ⟨_, exec_div_of_zero h rx, .fault _⟩
    · rw [show writtenRegs s (.div rx ry) = [rx, nx rx] from if_neg h,
        show s.dataEvents (.div rx ry) = [] from if_neg h]
      exact ⟨_, exec_div_of_ne_zero h rx, .divide _ _⟩
  | call | calll => exact ⟨_, rfl, .call _⟩
  | ret => exact ⟨_, rfl, .ret⟩
  | push => exact ⟨_, rfl, .push _⟩
  | pop => exact ⟨_, rfl, .pop _ _⟩
  | print => exact ⟨_, rfl, .print _⟩
  | input => exact ⟨_, rfl, .input _⟩
  | hlt => exact ⟨_, rfl, .halt⟩

/-- The effect behind a known next state. -/
theorem effect_of_exec {i : Instr} {s t : State} (h : exec i s = .next t) :
    Effect s (flagUse i) (writtenRegs s i) (s.dataEvents i) t := by
  obtain ⟨u, hu, he⟩ := exec_effect i s
  cases hu.symm.trans h
  exact he

/-! ### Flags and registers (10_state.md R23, R30) -/

theorem FlagsKept.takeFault (s : State) (code : FaultCode) : FlagsKept s (s.takeFault code) := ⟨rfl, rfl, rfl⟩

theorem FlagsKept.pushRegs (s : State) (rs : List RegIdx) : FlagsKept s (s.pushRegs rs) := by
  simp [FlagsKept, State.pushRegs_eq]

theorem FlagsKept.popRegs (s : State) (rs : List RegIdx) : FlagsKept s (s.popRegs rs) := by
  simp [FlagsKept, State.popRegs_eq]

/-- An effect outside the table of flag writers leaves the three flags. -/
theorem Effect.flagsKept {s t : State} {rs : List RegIdx} {es : List PortEvent} (h : Effect s .none rs es t) :
    FlagsKept s t := by
  cases h with
  | setPc | setOne | swap | call | ret | halt => exact ⟨rfl, rfl, rfl⟩
  | load | store | print => simp [FlagsKept]
  | push rs => exact FlagsKept.pushRegs s rs
  | pop => exact FlagsKept.popRegs s _

/-- An effect that writes `Z` and `N` leaves `C`. -/
theorem Effect.carryKept {s t : State} {rs : List RegIdx} {es : List PortEvent} (h : Effect s .zn rs es t) :
    t.c = s.c := by
  cases h with
  | test => rfl
  | input => simp

/-- Two register writes reach the two registers alone. -/
theorem RegsKept.setReg_setReg (s : State) (r q : RegIdx) (v w : Byte) :
    RegsKept [r, q] s ((s.setReg r v).setReg q w) := by
  intro k hk
  simp only [List.mem_cons, List.not_mem_nil, or_false, not_or] at hk
  obtain ⟨hr, hq⟩ := hk
  rw [State.reg_setReg, if_neg hq, State.reg_setReg, if_neg hr]

theorem RegsKept.setReg (s : State) (r : RegIdx) (v : Byte) : RegsKept [r] s (s.setReg r v) := by
  intro k hk
  rw [State.reg_setReg, if_neg (by simpa using hk)]

/-- Writing the stack pointer writes registers 14 and 15 (R22). -/
theorem RegsKept.setSp (s : State) (v : Addr) : RegsKept [14#4, 15#4] s (s.setSp v) :=
  RegsKept.setReg_setReg s _ _ _ _

/-- An effect leaves every register that its row of the table does not list. -/
theorem Effect.regsKept {s t : State} {f : FlagUse} {rs : List RegIdx} {es : List PortEvent}
    (h : Effect s f rs es t) : RegsKept rs s t := by
  cases h with
  | setPc | compare | test | halt => exact fun _ _ => rfl
  | setOne | alu => exact RegsKept.setReg s _ _
  | swap | mul | divide => exact RegsKept.setReg_setReg s _ _ _ _
  | load rd a =>
    intro q hq
    exact (RegsKept.setReg (s.afterLoad a) rd (s.loadByte a) q hq).trans (State.afterLoad_reg s a q)
  | store | print => intro q _; simp
  | fault => exact RegsKept.setReg s _ _
  | call => exact RegsKept.setSp (s := (s.writeMem _ _).writeMem _ _) _
  | ret => exact RegsKept.setSp (s := s.setPc _) _
  | push rs => exact fun q hq => State.pushRegs_reg_other s rs q hq
  | pop rx ry =>
    refine fun q hq => State.popRegs_reg_other s _ q fun hmem => hq ?_
    simpa only [List.mem_append, mem_popRange] using hmem
  | input rd =>
    intro q hq
    exact (RegsKept.setReg s.takeChar rd s.charInByte q hq).trans (State.takeChar_reg s q)

/-! ### The parameters and the attachment of the ports (70_reset_and_hazards.md R251) -/

theorem Effect.setupKept {s t : State} {f : FlagUse} {rs : List RegIdx} {es : List PortEvent}
    (h : Effect s f rs es t) : SetupKept s t := by
  cases h with
  | setPc | setOne | swap | alu | compare | test | mul | divide | fault | call | ret | halt =>
    exact ⟨rfl, rfl, rfl, rfl⟩
  | load | store | print | input => simp [SetupKept]
  | push => simp [SetupKept, State.pushRegs_eq]
  | pop => simp [SetupKept, State.popRegs_eq]

theorem step_setupKept {s t : State} (h : step s = .next t) : SetupKept s t := by
  obtain ⟨-, rfl⟩ | ⟨-, -, rfl⟩ | ⟨-, -, i, -, hexec⟩ | ⟨-, -, op, -, rfl⟩ := step_cases h
  · exact ⟨rfl, rfl, rfl, rfl⟩
  · exact (Effect.fault _).setupKept
  · exact (effect_of_exec hexec).setupKept
  · exact (Effect.fault _).setupKept

/-! ### Port events account for memory, output and input (10_state.md R36 to R39) -/

/-- A list of port events accounts for the change from `s` to `t`, with at most one character event of each kind. -/
structure Accounts (es : List PortEvent) (s t : State) : Prop where
  mem : t.mem = replayWrites es s.mem
  output : t.charOut = s.charOut ++ outputsOf es
  input : t.charIn = s.charIn.drop (inputRequests es)
  output_le_one : (outputsOf es).length ≤ 1
  input_le_one : inputRequests es ≤ 1

theorem Accounts.nil {s t : State} (hmem : t.mem = s.mem) (hports : PortsKept s t) : Accounts [] s t := by
  obtain ⟨hcharOut, hcharIn⟩ := hports
  exact ⟨hmem, hcharOut.trans (List.append_nil _).symm, hcharIn, Nat.zero_le _, Nat.zero_le _⟩

/-- Registers, flags, `pc` and `halted` are not accounted for: they may be written last. -/
theorem Accounts.of_same_mem_ports {es : List PortEvent} {s t u : State} (h : Accounts es s t)
    (hmem : u.mem = t.mem) (hports : PortsKept t u) : Accounts es s u := by
  obtain ⟨hcharOut, hcharIn⟩ := hports
  exact ⟨hmem.trans h.mem, hcharOut.trans h.output, hcharIn.trans h.input, h.output_le_one, h.input_le_one⟩

/-- A read before the other events changes nothing that is accounted for. -/
theorem Accounts.memRead {es : List PortEvent} {s t : State} {a : Addr} {v : Byte}
    (h : Accounts es s t) : Accounts (.memRead a v :: es) s t :=
  ⟨h.mem, h.output, h.input, h.output_le_one, h.input_le_one⟩

/-- A write before the other events is accounted for by the cell it sets. -/
theorem Accounts.memWrite {es : List PortEvent} {s t : State} {a : Addr} {v : Byte}
    (h : Accounts es (s.writeMem a v) t) : Accounts (.memWrite a v :: es) s t :=
  ⟨h.mem, h.output, h.input, h.output_le_one, h.input_le_one⟩

theorem Accounts.charOutEvents (s : State) (v : Byte) : Accounts (s.charOutEvents v) s (s.putChar v) := by
  unfold State.charOutEvents State.putChar
  split
  · exact ⟨rfl, rfl, rfl, le_rfl, Nat.zero_le _⟩
  · exact .nil rfl ⟨rfl, rfl⟩

theorem Accounts.charInEvents (s : State) : Accounts s.charInEvents s s.takeChar := by
  unfold State.charInEvents State.takeChar
  split
  · exact ⟨rfl, (List.append_nil _).symm, List.drop_one.symm, Nat.zero_le _, le_rfl⟩
  · exact .nil rfl ⟨rfl, rfl⟩

/-- A program's load (20_memory.md R72). -/
theorem Accounts.loadEvents (s : State) (a : Addr) : Accounts (s.loadEvents a) s (s.afterLoad a) := by
  unfold State.loadEvents State.afterLoad
  split
  · exact .charInEvents s
  · exact .memRead (.nil rfl ⟨rfl, rfl⟩)

/-- A program's store (20_memory.md R72). -/
theorem Accounts.storeEvents (s : State) (a : Addr) (v : Byte) :
    Accounts (s.storeEvents a v) s (s.storeByte a v) := by
  unfold State.storeEvents State.storeByte
  split
  · exact .memWrite (.charOutEvents (s.writeMem a v) v)
  · exact .memWrite (.nil rfl ⟨rfl, rfl⟩)

/-- PUSH makes writes alone. -/
theorem State.pushEvents_no_chars (s : State) (rs : List RegIdx) (sp : Addr) :
    outputsOf (s.pushEvents rs sp) = [] ∧ inputRequests (s.pushEvents rs sp) = 0 := by
  induction rs generalizing sp with
  | nil => exact ⟨rfl, rfl⟩
  | cons r rs ih => exact ih (sp - 1#16)

theorem Accounts.pushEvents (s : State) (rs : List RegIdx) :
    Accounts (s.pushEvents rs s.sp) s (s.pushRegs rs) := by
  obtain ⟨hout, hin⟩ := s.pushEvents_no_chars rs s.sp
  constructor
  case mem => exact (s.replayWrites_pushEvents rs s.sp).symm
  all_goals simp [State.pushRegs_eq, hout, hin]

/-- POP makes reads alone, so its events account for whatever leaves memory and the ports. -/
theorem Accounts.popEvents_of_portsKept (s : State) {t u : State} (rs : List RegIdx) (sp : Addr)
    (hmem : u.mem = t.mem) (hports : PortsKept t u) : Accounts (s.popEvents rs sp) t u := by
  induction rs generalizing sp with
  | nil => exact .nil hmem hports
  | cons r rs ih => exact .memRead (ih (sp + 1#16))

theorem Accounts.popEvents (s : State) (rs : List RegIdx) : Accounts (s.popEvents rs s.sp) s (s.popRegs rs) := by
  refine .popEvents_of_portsKept s rs s.sp ?_ ?_ <;> simp [PortsKept, State.popRegs_eq]

theorem Accounts.faultEvents (s : State) (code : FaultCode) : Accounts s.faultEvents s (s.takeFault code) :=
  .memWrite (.memWrite (.memRead (.memRead (.nil rfl ⟨rfl, rfl⟩))))

theorem Accounts.pushReturnEvents (s : State) : Accounts s.pushReturnEvents s s.pushReturn := by
  rw [State.pushReturn_eq]
  exact .memWrite (.memWrite (.nil rfl ⟨rfl, rfl⟩))

theorem Accounts.popReturnEvents (s : State) : Accounts s.popReturnEvents s s.popReturn :=
  .memRead (.memRead (.nil rfl ⟨rfl, rfl⟩))

/-- The data events of an effect account for what it does. -/
theorem Effect.accounts {s t : State} {f : FlagUse} {rs : List RegIdx} {es : List PortEvent}
    (h : Effect s f rs es t) : Accounts es s t := by
  cases h with
  | setPc | setOne | swap | alu | compare | test | mul | divide | halt => exact .nil rfl ⟨rfl, rfl⟩
  | load rd a => exact Accounts.of_same_mem_ports (.loadEvents s a) rfl ⟨rfl, rfl⟩
  | store a v => exact Accounts.of_same_mem_ports (.storeEvents s a v) rfl ⟨rfl, rfl⟩
  | fault code => exact .faultEvents s code
  | call v => exact Accounts.of_same_mem_ports (.pushReturnEvents s) rfl ⟨rfl, rfl⟩
  | ret => exact .popReturnEvents s
  | push rs => exact Accounts.of_same_mem_ports (.pushEvents s rs) rfl ⟨rfl, rfl⟩
  | pop rx ry => exact Accounts.of_same_mem_ports (.popEvents s _) rfl ⟨rfl, rfl⟩
  | print v => exact Accounts.of_same_mem_ports (.charOutEvents s v) rfl ⟨rfl, rfl⟩
  | input rd => exact Accounts.of_same_mem_ports (.charInEvents s) rfl ⟨rfl, rfl⟩

/-! ### The event list of a step, by what the step does (60_exceptions.md R220) -/

theorem State.stepEvents_of_halted {s : State} (h : s.halted = true) : s.stepEvents = [] := if_pos h

theorem State.stepEvents_of_odd_pc {s : State} (h : s.halted = false) (hpc : s.pc.getLsbD 0 = true) :
    s.stepEvents = s.faultEvents := by
  simp only [State.stepEvents, h, hpc, Bool.false_eq_true, if_false, if_true]

theorem State.stepEvents_of_instr {s : State} {i : Instr} (h : AboutToRun i s) :
    s.stepEvents = [s.readEvent s.pc, s.readEvent (s.pc + 1#16)] ++ s.dataEvents i := by
  obtain ⟨hhalted, hpc, hdecode⟩ := h
  simp only [State.stepEvents, hhalted, hpc, hdecode, Bool.false_eq_true, if_false]

theorem State.stepEvents_of_invalidOpcode {s : State} {op : Byte} (h : s.halted = false)
    (hpc : s.pc.getLsbD 0 = false) (hdecode : decode s.fetchOp s.fetchArg = .invalidOpcode op) :
    s.stepEvents = [s.readEvent s.pc, s.readEvent (s.pc + 1#16)] ++ s.faultEvents := by
  simp only [State.stepEvents, h, hpc, hdecode, Bool.false_eq_true, if_false]

/-- The events of any step account for it. -/
theorem step_accounts {s t : State} (h : step s = .next t) : Accounts s.stepEvents s t := by
  obtain ⟨hh, rfl⟩ | ⟨hh, hpc, rfl⟩ | ⟨hh, hpc, i, hdecode, hexec⟩ | ⟨hh, hpc, op, hdecode, rfl⟩ := step_cases h
  · rw [State.stepEvents_of_halted hh]
    exact .nil rfl ⟨rfl, rfl⟩
  · rw [State.stepEvents_of_odd_pc hh hpc]
    exact .faultEvents s _
  · rw [State.stepEvents_of_instr ⟨hh, hpc, hdecode⟩]
    exact .memRead (.memRead (effect_of_exec hexec).accounts)
  · rw [State.stepEvents_of_invalidOpcode hh hpc hdecode]
    exact .memRead (.memRead (.faultEvents s _))

end Sys2Proof.Machine
end

section
/-! SUPPORT. The model's event lists are the accesses that 20_memory.md R61 lists; the statements about the state that
this settles. -/

namespace Sys2Proof.Claims

open Sys2Proof Sys2Proof.Machine

/-! ### The events of each instruction are the accesses of R61 -/

theorem loadHooked_iff (s : State) (a : Addr) :
    s.loadHooked a = true ↔ s.mmioHook = true ∧ a = 0x00FB#16 := by
  simp [State.loadHooked, hookInAddr, and_comm]

theorem storeHooked_iff (s : State) (a : Addr) :
    s.storeHooked a = true ↔ s.mmioHook = true ∧ a = 0x00FA#16 := by
  simp [State.storeHooked, hookOutAddr, and_comm]

theorem charInEvents_eq_inputAccess (s : State) : s.charInEvents = inputAccess s := by
  cases h : s.charInAttached <;> simp [State.charInEvents, inputAccess, State.charInByte, h]

theorem loadEvents_eq_loadAccess (s : State) (a : Addr) : s.loadEvents a = loadAccess s a := by
  simp only [State.loadEvents, loadAccess, loadHooked_iff, charInEvents_eq_inputAccess, State.readEvent]

theorem storeEvents_eq_storeAccess (s : State) (a : Addr) (v : Byte) : s.storeEvents a v = storeAccess s a v := by
  simp only [State.storeEvents, storeAccess, storeHooked_iff, State.charOutEvents, outputAccess, List.singleton_append]

/-- PUSH of a range: its `k`-th register goes `k + 1` bytes below the stack pointer. -/
theorem pushEvents_regRange (s : State) (rx ry : RegIdx) (sp : Addr) :
    s.pushEvents (regRange rx ry) sp = (List.range ((ry - rx).toNat + 1)).map fun k =>
      .memWrite (sp - BitVec.ofNat 16 (k + 1)) (s.reg (rx + BitVec.ofNat 4 k)) := by
  rw [State.pushEvents_eq]
  apply List.ext_getElem
  · simp
  · intro k _ _
    simp [getElem_regRange]

theorem length_popRange (order : PopOrder) (rx ry : RegIdx) :
    (popRange order rx ry).length = (ry - rx).toNat + 1 := by
  cases order <;> simp [popRange]

/-- POP reads as many bytes as its range has registers, in rising order whatever the order of the registers. -/
theorem popEvents_popRange (s : State) (order : PopOrder) (rx ry : RegIdx) (sp : Addr) :
    s.popEvents (popRange order rx ry) sp = (List.range ((ry - rx).toNat + 1)).map fun k =>
      .memRead (sp + BitVec.ofNat 16 k) (s.readMem (sp + BitVec.ofNat 16 k)) := by
  rw [State.popEvents_eq, length_popRange]
  rfl

/-- The model's data events are the table of R61, instruction by instruction. -/
theorem dataEvents_eq_dataAccesses (i : Instr) (s : State) : s.dataEvents i = dataAccesses s i := by
  cases i with
  | load | loadz => exact loadEvents_eq_loadAccess s _
  | stor | storz => exact storeEvents_eq_storeAccess s _ _
  | push rx ry => exact pushEvents_regRange s rx ry s.sp
  | pop rx ry => exact popEvents_popRange s s.popOrder rx ry s.sp
  | input => exact charInEvents_eq_inputAccess s
  | _ => rfl

/-- A byte that is no opcode decodes to no instruction (30_encoding.md R99). -/
theorem decode_of_validOpcode_false {op : Byte} (h : validOpcode op = false) (arg : Byte) :
    ∃ op', decode op arg = .invalidOpcode op' := by
  cases hdecode : decode op arg with
  | instr i =>
    obtain ⟨-, hshape⟩ := opcode_of_decode hdecode
    simp [validOpcode, hshape] at h
  | invalidOpcode op' => exact ⟨op', rfl⟩

/-! ### The statements -/

/-- Settles O17: the event list case by case of the step, and `step_accounts` for what it accounts for. -/
theorem eventsAccountForTheStep : Obligations.EventsAccountForTheStep := by
  refine ⟨fun i s h => ?_, fun s ⟨hhalted, hpc, hinvalid⟩ => ?_, fun s t h => ?_⟩
  · rw [State.stepEvents_of_instr h, dataEvents_eq_dataAccesses]
    rfl
  · obtain ⟨op, hdecode⟩ := decode_of_validOpcode_false hinvalid s.fetchArg
    rw [State.stepEvents_of_invalidOpcode hhalted hpc hdecode]
    rfl
  · obtain ⟨hmem, houtput, hinput, hout, hin⟩ := step_accounts h
    exact ⟨hmem, houtput, hinput, hout, hin⟩

/-- Settles O16: what is appended and what is consumed is what the step's events account for. -/
theorem stepKeepsSetupAndExtendsTraces : Obligations.StepKeepsSetupAndExtendsTraces := fun _ _ h =>
  ⟨step_setupKept h, ⟨_, (step_accounts h).output⟩, ⟨_, (step_accounts h).input⟩⟩

/-- Settles O19: by the effect of the instruction, and for DIV by zero by fault entry. -/
theorem flagsChangeOnlyWhereTheTableSays : Obligations.FlagsChangeOnlyWhereTheTableSays := by
  intro i s t h
  have heffect := effect_of_exec h
  refine ⟨fun hnone => ?_, fun hzn => ?_, fun rx ry hdiv hzero => ?_⟩
  · rw [hnone] at heffect
    exact heffect.flagsKept
  · rw [hzn] at heffect
    exact heffect.carryKept
  · subst hdiv
    cases (exec_div_of_zero hzero rx).symm.trans h
    exact .takeFault s .divZero

/-- Settles O20: by the effect of the instruction. -/
theorem registersChangeOnlyWhereTheTableSays : Obligations.RegistersChangeOnlyWhereTheTableSays :=
  fun _ _ _ h => (effect_of_exec h).regsKept

end Sys2Proof.Claims
end

section
/-! SUPPORT. Memory through a step: the writes of any list of events keep the canonical form (log 10), and a write reaches
one cell; the statements of 20_memory.md that this settles. -/

namespace Sys2Proof.Machine

/-- Memory writes keep the canonical form, whatever other events stand between them. -/
theorem replayWrites_wf (es : List PortEvent) {m : Memory} (h : Memory.wf m = true) :
    Memory.wf (replayWrites es m) = true := by
  induction es generalizing m with
  | nil => exact h
  | cons e es ih =>
    cases e with
    | memWrite a v => exact ih (Memory.wf_write h a.isLt v)
    | memRead | charOut | charIn => exact ih h

/-- A write leaves every other cell (20_memory.md R73 (a)). -/
theorem MemKept.writeMem (s : State) (a : Addr) (v : Byte) : MemKept [a] s (s.writeMem a v) := by
  intro k hk
  rw [State.readMem_writeMem, if_neg (by simpa using hk)]

end Sys2Proof.Machine

namespace Sys2Proof.Claims

open Sys2Proof Sys2Proof.Machine

/-- Settles O14: the memory after a step is the memory before it with the writes among the step's events. -/
theorem stepKeepsMemoryCanonical : Obligations.StepKeepsMemoryCanonical := by
  intro s t hwf hstep
  have hmem : t.mem = replayWrites s.stepEvents s.mem := (step_accounts hstep).mem
  rw [hmem]
  exact replayWrites_wf s.stepEvents hwf

/-- Settles O15: reset, at construction or by the host, leaves no entry in the list. -/
theorem resetMemoryIsCanonical : Obligations.ResetMemoryIsCanonical := ⟨rfl, fun _ => rfl⟩

/-- Settles O21: `State.readMem_writeMem` at the cell written and `MemKept.writeMem` at the others. -/
theorem cellReadsAsLastWritten : Obligations.CellReadsAsLastWritten := by
  intro s a v
  have hread : (s.writeMem a v).readMem a = v := by rw [State.readMem_writeMem, if_pos rfl]
  have hregs : RegsKept [] s (s.writeMem a v) := fun r _ => State.writeMem_reg s a v r
  exact ⟨hread, MemKept.writeMem s a v, hregs⟩

end Sys2Proof.Claims
end

section
/-! SUPPORT. The encoding: what the decoder reads from an encoder's bytes, which bytes are no opcode, and the opcode table
as the list of the instructions' rows (30_encoding.md R91 to R103); the statements about the encoding. -/

namespace Sys2Proof

open Sys2Proof.Machine

/-! ### Decoder against encoder -/

/-- By the operand shape: a field is a nibble of the operand byte, or the whole byte, or absent (R93). -/
theorem decode_opcodeOf_operandOf (i : Instr) : decode (opcodeOf i) (operandOf i) = .instr i := by
  cases i with
  | nop | ret | hlt => rfl
  | ldi0 | ldi1 | ldi2 | ldi3 | ldi4 | ldi5 | ldi6 | ldi7 | ldi8 | ldi9 | ldi10 | ldi11 | ldi12 | ldi13 | ldi14
  | ldi15 | loadz | storz | jmp | jz | jnz | jc | jnc | jn | call => rfl
  | inc | dec | not | shl | shr | print | input =>
    simp only [decode, opcodeOf, operandOf, hiNibble_joinNibbles]
  | mov | swap | load | stor | add | adc | sub | sbc | cmp | mul | div | and | or | xor | test | jmpl | calll
  | push | pop =>
    simp only [decode, opcodeOf, operandOf, hiNibble_joinNibbles, loNibble_joinNibbles]

@[simp] theorem decodeWord_encode (i : Instr) : decodeWord (encode i) = .instr i := by
  simp [decodeWord, encode, decode_opcodeOf_operandOf]

/-- The table's numbering of a word's bits is the word's own (R91, log 11). -/
theorem decodeTableWord_toNat (iw : BitVec 16) : decodeTableWord 16 iw.toNat = (decodeWord iw).toOption := by
  rw [decodeTableWord, Nat.mod_eq_of_lt iw.isLt, BitVec.ofNat_toNat, BitVec.setWidth_eq]

/-- A word that decodes is its instruction's encoding when the operand bytes agree: the opcode bytes always do. -/
theorem encode_eq_iff_of_decodeWord {iw : BitVec 16} {i : Instr} (h : decodeWord iw = .instr i) :
    encode i = iw ↔ operandOf i = loByte iw := by
  obtain ⟨hop, -⟩ := opcode_of_decode h
  constructor
  · rintro rfl
    simp [encode]
  · intro harg
    rw [encode, ← hop, harg, joinBytes_hiByte_loByte]

theorem joinNibbles_hiNibble_zero_eq_iff (b : Byte) : joinNibbles (hiNibble b) 0#4 = b ↔ loNibble b = 0#4 := by
  constructor
  · intro h
    rw [← h, loNibble_joinNibbles]
  · intro h
    rw [← h, joinNibbles_hiNibble_loNibble]

/-! ### Valid and invalid opcodes -/

/-- The operand byte has no say in which instruction it is (R95): only in its fields. -/
theorem decode_opcodeOf (i : Instr) (arg : Byte) :
    ∃ j, decode (opcodeOf i) arg = .instr j ∧ mnemonicOf j = mnemonicOf i := by
  cases i <;> exact ⟨_, rfl, rfl⟩

/-- The 54 opcodes have a shape and are instructions (R95): a fact about the 256 bytes. -/
theorem decode_isSome_of_validOpcode :
    ∀ op : Byte, validOpcode op = true → (decode op 0x00#8).toOption.isSome = true := by
  decide +kernel

theorem validOpcode_iff_exists_opcodeOf (op : Byte) : validOpcode op = true ↔ ∃ i, opcodeOf i = op := by
  constructor
  · intro h
    have hsome := decode_isSome_of_validOpcode op h
    cases hdecode : decode op 0x00#8 with
    | instr i => exact ⟨i, (opcode_of_decode hdecode).1.symm⟩
    | invalidOpcode op' => simp [hdecode, Decoded.toOption] at hsome
  · rintro ⟨i, rfl⟩
    obtain ⟨-, hshape⟩ := opcode_of_decode (decode_opcodeOf_operandOf i)
    rw [validOpcode, hshape, Option.isSome_some]

/-- The byte the decoder rejects is the opcode byte it was given (R99). -/
theorem op_of_decode_invalidOpcode {op op' arg : Byte} (h : decode op arg = .invalidOpcode op') : op' = op := by
  unfold decode at h
  dsimp only at h
  split at h <;> simp only [Decoded.invalidOpcode.injEq, reduceCtorEq] at h
  exact h.symm

/-- The decoder rejects exactly the bytes without a shape, whatever the operand byte (R99). -/
theorem decode_eq_invalidOpcode_iff (op arg : Byte) :
    decode op arg = .invalidOpcode op ↔ validOpcode op = false := by
  constructor
  · intro hdecode
    by_contra hvalid
    obtain ⟨i, rfl⟩ := (validOpcode_iff_exists_opcodeOf op).mp (Bool.of_not_eq_false hvalid)
    obtain ⟨j, hj, -⟩ := decode_opcodeOf i arg
    cases hj.symm.trans hdecode
  · intro hvalid
    obtain ⟨op', hdecode⟩ := Claims.decode_of_validOpcode_false hvalid arg
    rw [hdecode, op_of_decode_invalidOpcode hdecode]

/-- The ranges R99 lists are the complement of the opcodes R95 lists. -/
theorem validOpcode_eq_false_iff (op : Byte) :
    validOpcode op = false ↔ Claims.invalidOpcodeValue op.toNat = true := by
  have hlt : op.toNat < 256 := op.isLt
  simp only [validOpcode, shapeOfOpcode, Claims.invalidOpcodeValue]
  split_ifs <;> simp <;> omega

/-! ### The step on an invalid opcode -/

theorem step_of_invalidOpcode {s : State} (hhalted : s.halted = false) (hpc : s.pc.getLsbD 0 = false)
    (hinvalid : validOpcode s.fetchOp = false) : step s = .next (s.takeFault .invalidOpcode) := by
  have hdecode := (decode_eq_invalidOpcode_iff s.fetchOp s.fetchArg).mpr hinvalid
  simp only [step, State.engineStep, State.fetchAndExecute, hhalted, hpc, hdecode, Bool.false_eq_true, if_false]

/-- The `pc` read back from where the fault put it (60_exceptions.md R229). -/
@[simp] theorem State.takeFault_savedPc (s : State) (code : FaultCode) : (s.takeFault code).savedPc = s.pc := by
  simp [State.savedPc, savedPcHiAddr, savedPcLoAddr]

/-! ### The opcode table -/

/-- The row of an instruction: its opcode byte fixed, its operand byte free (R103). -/
def rowOf (i : Instr) : OpRow := ⟨mnemonicOf i, joinBytes (opcodeOf i) 0x00#8, 0xFF00#16⟩

/-- The table lists, in the order of their opcodes, the rows of all opcode bytes that decode. -/
theorem opcodeTable_eq_rowOf_decoded :
    opcodeTable = ((List.range 256).filterMap fun n => (decode (BitVec.ofNat 8 n) 0x00#8).toOption).map rowOf := by
  decide +kernel

theorem matchesWord_rowOf_iff (i : Instr) (iw : BitVec 16) :
    (rowOf i).matchesWord iw = true ↔ hiByte iw = opcodeOf i := by
  have hmask : iw &&& 0xFF00#16 = joinBytes (hiByte iw) 0x00#8 := by
    rw [← Laws.mask_joinBytes _ (loByte iw), joinBytes_hiByte_loByte]
  rw [OpRow.matchesWord, rowOf, beq_iff_eq, hmask]
  constructor
  · intro h
    rw [← hiByte_joinBytes (hiByte iw) 0x00#8, h, hiByte_joinBytes]
  · intro h
    rw [h]

/-- The opcode byte alone fixes the row. -/
theorem rowOf_congr {i j : Instr} (h : opcodeOf i = opcodeOf j) : rowOf i = rowOf j := by
  obtain ⟨k, hk, hki⟩ := decode_opcodeOf i 0x00#8
  obtain ⟨l, hl, hlj⟩ := decode_opcodeOf j 0x00#8
  rw [h, hl] at hk
  cases hk
  rw [rowOf, rowOf, ← hki, ← hlj, h]

theorem mem_opcodeTable_iff (r : OpRow) : r ∈ opcodeTable ↔ ∃ i, rowOf i = r := by
  rw [opcodeTable_eq_rowOf_decoded, List.mem_map]
  constructor
  · rintro ⟨i, -, hi⟩
    exact ⟨i, hi⟩
  · rintro ⟨i, rfl⟩
    obtain ⟨j, hj, -⟩ := decode_opcodeOf i 0x00#8
    have hop : opcodeOf j = opcodeOf i := (opcode_of_decode hj).1.symm
    refine ⟨j, List.mem_filterMap.mpr ⟨(opcodeOf i).toNat, List.mem_range.mpr (opcodeOf i).isLt, ?_⟩, rowOf_congr hop⟩
    rw [BitVec.ofNat_toNat, BitVec.setWidth_eq, hj, Decoded.toOption]

end Sys2Proof

namespace Sys2Proof.Claims

open Sys2Proof Sys2Proof.Machine

/-- Settles O1: through the two bytes by `decodeWord_encode`, and the table numbers the same word. -/
theorem decoderReadsBackTheEncoder : Obligations.DecoderReadsBackTheEncoder := by
  intro i
  have htable : decodeTableWord 16 (encode i).toNat = some i := by
    rw [decodeTableWord_toNat, decodeWord_encode, Decoded.toOption]
  exact ⟨decodeWord_encode i, htable⟩

/-- Settles O2: the encoder rebuilds the operand byte from the bits the shape uses (`operand_of_decode`), and the
canonical words are those where the other bits are zero. -/
theorem encoderReadsBackCanonicalWords : Obligations.EncoderReadsBackCanonicalWords := by
  intro iw i hdecode
  obtain ⟨-, hshape⟩ := opcode_of_decode hdecode
  rw [encode_eq_iff_of_decodeWord hdecode, operand_of_decode hdecode, canonicalWord, hshape]
  cases i.shape with
  | none => exact eq_comm.trans beq_iff_eq.symm
  | r => simp [joinNibbles_hiNibble_zero_eq_iff]
  | ldi | rr | zp | rel => simp

/-- Settles O3: the rejected bytes are those without a shape, the complement of R95, and the step on them is fault entry. -/
theorem opcodesOutsideTheTableRaiseInvalidOpcode : Obligations.OpcodesOutsideTheTableRaiseInvalidOpcode := by
  refine ⟨fun op arg => ?_, by decide +kernel, fun s hhalted hpc hlisted => ?_⟩
  · rw [decode_eq_invalidOpcode_iff, validOpcode_eq_false_iff]
  · have hinvalid : validOpcode s.fetchOp = false := (validOpcode_eq_false_iff _).mpr hlisted
    refine ⟨_, step_of_invalidOpcode hhalted hpc hinvalid, ?_, ?_, ?_⟩
    · rw [State.takeFault_reg, if_pos rfl, faultByte]
    · exact State.takeFault_savedPc s _
    · exact State.takeFault_pc s _

/-- Settles O4: the rows are those of the instructions, and a word matches an instruction's row when it has its opcode. -/
theorem wordsDecodeByTheirTableRow : Obligations.WordsDecodeByTheirTableRow := by
  refine ⟨rfl, fun iw r hr hmatch => ?_, fun iw i hdecode => ?_, fun iw r q hr hq hmatch hmatch' => ?_⟩
  · obtain ⟨i, rfl⟩ := (mem_opcodeTable_iff r).mp hr
    rw [decodeWord, (matchesWord_rowOf_iff i iw).mp hmatch]
    exact decode_opcodeOf i (loByte iw)
  · obtain ⟨hop, -⟩ := opcode_of_decode hdecode
    exact ⟨rowOf i, (mem_opcodeTable_iff _).mpr ⟨i, rfl⟩, (matchesWord_rowOf_iff i iw).mpr hop, rfl⟩
  · obtain ⟨i, rfl⟩ := (mem_opcodeTable_iff r).mp hr
    obtain ⟨j, rfl⟩ := (mem_opcodeTable_iff q).mp hq
    have hop := (matchesWord_rowOf_iff i iw).mp hmatch
    have hop' := (matchesWord_rowOf_iff j iw).mp hmatch'
    exact rowOf_congr (hop.symm.trans hop')

end Sys2Proof.Claims
end

section
/-! SUPPORT. NOP, the immediate loads, the moves, the loads and the stores (40_move_load_store.md): what they write, and by
their effect what they leave; the statements of that file. -/

namespace Sys2Proof.Machine

/-! ### What an effect leaves, as the words of the statements -/

/-- The frame of an effect, from what it does to memory and to `halted`. -/
theorem Effect.frame {s t : State} {f : FlagUse} {rs : List RegIdx} {es : List PortEvent} {cells : List Addr}
    (h : Effect s f rs es t) (hmem : MemKept cells s t) (hhalted : t.halted = s.halted) : Frame rs cells s t :=
  ⟨h.regsKept, hmem, hhalted, h.setupKept⟩

/-- An effect without data events leaves memory. -/
theorem Effect.memKept {s t : State} {f : FlagUse} {rs : List RegIdx} (h : Effect s f rs [] t) : MemKept [] s t := by
  have hmem : t.mem = s.mem := h.accounts.mem
  intro a _
  rw [State.readMem, hmem, State.readMem]

/-- An effect without data events leaves the output trace and the pending input. -/
theorem Effect.portsKept {s t : State} {f : FlagUse} {rs : List RegIdx} (h : Effect s f rs [] t) : PortsKept s t :=
  ⟨h.accounts.output.trans (List.append_nil _), h.accounts.input⟩

theorem OnlyPc.setPc (s : State) (v : Addr) : OnlyPc v s (s.setPc v) :=
  have heffect : Effect s .none [] [] (s.setPc v) := .setPc v
  ⟨rfl, heffect.flagsKept, heffect.frame heffect.memKept rfl, heffect.portsKept⟩

/-! ### One register loaded (R121, R122) -/

@[simp] theorem State.reg_loadImmediate (s : State) (r q : RegIdx) (v : Byte) :
    (s.loadImmediate r v).reg q = if q = r then v else s.reg q :=
  State.reg_setReg s r q v

/-- LDIn and MOV write one register and `pc`. -/
theorem State.loadImmediate_spec (s : State) (r : RegIdx) (v : Byte) :
    (s.loadImmediate r v).reg r = v ∧ (s.loadImmediate r v).pc = s.pc + 2#16 ∧ FlagsKept s (s.loadImmediate r v) ∧
      Frame [r] [] s (s.loadImmediate r v) ∧ PortsKept s (s.loadImmediate r v) :=
  have heffect : Effect s .none [r] [] (s.loadImmediate r v) := .setOne r v
  have hreg : (s.loadImmediate r v).reg r = v := by rw [State.reg_loadImmediate, if_pos rfl]
  ⟨hreg, rfl, heffect.flagsKept, heffect.frame heffect.memKept rfl, heffect.portsKept⟩

/-! ### Two registers exchanged (R123) -/

/-- The state after SWAP (tied to it by `exec_swap`). -/
def State.exchange (s : State) (rx ry : RegIdx) : State :=
  ((s.setReg rx (s.reg ry)).setReg ry (s.reg rx)).advance

theorem exec_swap (rx ry : RegIdx) (s : State) : exec (.swap rx ry) s = .next (s.exchange rx ry) := rfl

/-- Exchanging two registers permutes the register numbers, also where the two are the same. -/
theorem State.reg_exchange (s : State) (rx ry q : RegIdx) :
    (s.exchange rx ry).reg q = s.reg (Equiv.swap rx ry q) := by
  rw [State.exchange, State.advance_reg, State.reg_setReg, State.reg_setReg, Equiv.swap_apply_def]
  by_cases hx : q = rx
  · subst hx
    by_cases hy : q = ry
    · rw [if_pos hy, if_pos rfl, hy]
    · rw [if_neg hy, if_pos rfl, if_pos rfl]
  · rw [if_neg hx, if_neg hx]
    split <;> rfl

/-- The order of the two operands is immaterial. -/
theorem State.exchange_comm (s : State) (rx ry : RegIdx) : s.exchange ry rx = s.exchange rx ry := by
  have hregs : (s.exchange ry rx).regs = (s.exchange rx ry).regs :=
    regs_ext fun q => by rw [State.reg_exchange, State.reg_exchange, Equiv.swap_comm]
  calc s.exchange ry rx = { s.exchange rx ry with regs := (s.exchange ry rx).regs } := rfl
    _ = s.exchange rx ry := by rw [hregs]

/-- Exchanging twice restores every register. -/
theorem State.reg_exchange_exchange (s : State) (rx ry q : RegIdx) :
    ((s.exchange rx ry).exchange rx ry).reg q = s.reg q := by
  rw [State.reg_exchange, State.reg_exchange, Equiv.swap_apply_self]

/-! ### The byte `CharIn()` answers and the input it leaves (10_state.md R39) -/

theorem State.charIn_of_detached {s : State} (hport : s.charInAttached = false) :
    s.charInByte = 0x00#8 ∧ s.takeChar.charIn = s.charIn := by
  simp [State.charInByte, hport]

theorem State.charIn_of_nil {s : State} (hport : s.charInAttached = true) (hin : s.charIn = []) :
    s.charInByte = 0x00#8 ∧ s.takeChar.charIn = [] := by
  simp [State.charInByte, hport, hin]

theorem State.charIn_of_cons {s : State} {b : Byte} {rest : List Byte} (hport : s.charInAttached = true)
    (hin : s.charIn = b :: rest) : s.charInByte = b ∧ s.takeChar.charIn = rest := by
  simp [State.charInByte, hport, hin]

/-! ### The zero page (R126, R127) -/

theorem toNat_zeroPageAddr (imm : Byte) : (zeroPageAddr imm).toNat = imm.toNat :=
  BitVec.toNat_setWidth_of_le (by decide)

end Sys2Proof.Machine

namespace Sys2Proof.Claims

open Sys2Proof Sys2Proof.Machine

/-! ### Loads and stores with the hook (20_memory.md R72) -/

theorem loadByte_of_not_hooked {s : State} {a : Addr} (h : ¬ (s.mmioHook = true ∧ a = 0x00FB#16)) :
    s.loadByte a = s.readMem a ∧ (s.afterLoad a).charIn = s.charIn := by
  have hhooked : s.loadHooked a = false := Bool.eq_false_iff.mpr (mt (loadHooked_iff s a).mp h)
  constructor
  · rw [State.loadByte, hhooked, if_neg Bool.false_ne_true]
  · rw [State.afterLoad, hhooked, if_neg Bool.false_ne_true]

/-- A hooked load is answered as `CharIn()` answers (10_state.md R39). -/
theorem loadByte_of_hooked {s : State} {a : Addr} {v : Byte} {rest : List Byte} (hhook : s.mmioHook = true)
    (ha : a = 0x00FB#16) (hchar : s.charInByte = v ∧ s.takeChar.charIn = rest) :
    s.loadByte a = v ∧ (s.afterLoad a).charIn = rest := by
  have hhooked : s.loadHooked a = true := (loadHooked_iff s a).mpr ⟨hhook, ha⟩
  rwa [State.loadByte, State.afterLoad, if_pos hhooked, if_pos hhooked]

/-- LOAD and LOADZ, from their address. -/
theorem loadedFrom (s : State) (a : Addr) (rd : RegIdx) :
    LoadedFrom a rd s ((s.afterLoad a).setReg rd (s.loadByte a)).advance := by
  have heffect : Effect s .none [rd] (s.loadEvents a) ((s.afterLoad a).setReg rd (s.loadByte a)).advance := .load rd a
  have hmem : MemKept [] s ((s.afterLoad a).setReg rd (s.loadByte a)).advance := fun k _ => by simp
  have hreg : ((s.afterLoad a).setReg rd (s.loadByte a)).advance.reg rd = s.loadByte a := by simp
  refine ⟨fun hplain => ?_, fun hhook ha hport => ?_, fun hhook ha hport hin => ?_,
    fun b rest hhook ha hport hin => ?_, by simp [State.nextPc], by simp, heffect.flagsKept,
    heffect.frame hmem (by simp)⟩
  · exact (loadByte_of_not_hooked hplain).imp_left hreg.trans
  · exact (loadByte_of_hooked hhook ha (State.charIn_of_detached hport)).imp_left hreg.trans
  · exact (loadByte_of_hooked hhook ha (State.charIn_of_nil hport hin)).imp_left hreg.trans
  · exact (loadByte_of_hooked hhook ha (State.charIn_of_cons hport hin)).imp_left hreg.trans

/-- STOR and STORZ, to their address. -/
theorem storedTo (s : State) (a : Addr) (v : Byte) : StoredTo a v s (s.storeByte a v).advance := by
  have heffect : Effect s .none [] (s.storeEvents a v) (s.storeByte a v).advance := .store a v
  have hmem : MemKept [a] s (s.storeByte a v).advance := by
    intro k hk
    rw [State.advance_readMem, State.storeByte_readMem, if_neg (by simpa using hk)]
  have hcharOut : (s.storeByte a v).charOut =
      if s.mmioHook = true ∧ a = 0x00FA#16 ∧ s.charOutAttached = true then s.charOut ++ [v] else s.charOut := by
    simp only [State.storeByte_charOut, Bool.and_eq_true, storeHooked_iff, and_assoc]
  exact ⟨by simp, hcharOut, by simp [State.nextPc], by simp, heffect.flagsKept, heffect.frame hmem (by simp)⟩

/-! ### The statements -/

/-- Settles O27: NOP is the write of the next `pc`. -/
theorem nopOnlyAdvances : Obligations.NopOnlyAdvances :=
  ⟨fun _ => rfl, fun s => ⟨s.advance, rfl, .setPc s s.nextPc⟩⟩

/-- Settles O28: instruction by instruction, the opcode and the register it names; then `State.loadImmediate_spec`. -/
theorem ldiLoadsItsRegister : Obligations.LdiLoadsItsRegister := by
  intro p hp imm
  have hdecode : decode (0x10#8 + p.2.setWidth 8) imm = .instr (p.1 imm) := by fin_cases hp <;> rfl
  have hexec : ∀ s, exec (p.1 imm) s = .next (s.loadImmediate p.2 imm) := by fin_cases hp <;> exact fun _ => rfl
  exact ⟨hdecode, fun s => ⟨_, hexec s, s.loadImmediate_spec p.2 imm⟩⟩

/-- Settles O29: MOV loads one register with the value of another. -/
theorem movCopiesARegister : Obligations.MovCopiesARegister := fun rx ry =>
  ⟨decode_opcodeOf_operandOf (.mov rx ry), fun s => ⟨_, rfl, s.loadImmediate_spec rx (s.reg ry)⟩⟩

/-- Settles O30: SWAP permutes the register numbers by a transposition, which is its own inverse and symmetric. -/
theorem swapExchangesTwoRegisters : Obligations.SwapExchangesTwoRegisters := by
  refine fun rx ry => ⟨decode_opcodeOf_operandOf (.swap rx ry), fun s => ⟨?_, s.exchange rx ry, _, exec_swap rx ry s,
    ?_, ?_, rfl, ?_, ?_, ?_, exec_swap rx ry _, fun q _ => s.reg_exchange_exchange rx ry q⟩⟩
  case refine_1 => rw [exec_swap, exec_swap, State.exchange_comm]
  case refine_2 => rw [State.reg_exchange, Equiv.swap_apply_left]
  case refine_3 => rw [State.reg_exchange, Equiv.swap_apply_right]
  all_goals have heffect : Effect s .none [rx, ry] [] (s.exchange rx ry) := .swap rx ry
  · exact heffect.flagsKept
  · exact heffect.frame heffect.memKept rfl
  · exact heffect.portsKept

/-- Settles O31: both are loads, by `loadedFrom` at their address. -/
theorem loadsReadMemoryOrTheHookedPort : Obligations.LoadsReadMemoryOrTheHookedPort :=
  ⟨fun rx ry => ⟨decode_opcodeOf_operandOf (.load rx ry), fun s => ⟨rfl, _, rfl, loadedFrom s (s.pairAddr ry) rx⟩⟩,
    fun imm => ⟨rfl, fun s => ⟨toNat_zeroPageAddr imm, _, rfl, loadedFrom s (zeroPageAddr imm) 0#4⟩⟩⟩

/-- Settles O32: both are stores, by `storedTo` at their address. -/
theorem storesWriteTheirCell : Obligations.StoresWriteTheirCell :=
  ⟨fun rx ry => ⟨decode_opcodeOf_operandOf (.stor rx ry),
      fun s => ⟨rfl, _, rfl, storedTo s (s.pairAddr ry) (s.reg rx)⟩⟩,
    fun imm => ⟨rfl, fun s => ⟨toNat_zeroPageAddr imm, _, rfl, storedTo s (zeroPageAddr imm) (s.reg 0#4)⟩⟩⟩

end Sys2Proof.Claims
end

section
/-! SUPPORT. The arithmetic instructions (41_arithmetic.md): a result with its carry or borrow is the exact sum or
difference, so two of them in a row are a 16-bit sum or difference; what MUL and DIV write; the statements of that
file. -/

namespace Sys2Proof.Machine

/-! ### Sums and differences with their carry (R140 to R146) -/

/-- The carry counts the 256 that the exact sum has over its byte (R140, R141). -/
theorem addBytes_exact (a b : Byte) (cin : Bool) :
    (addBytes a b cin).carry.toNat * 256 + (addBytes a b cin).value.toNat = a.toNat + b.toNat + cin.toNat := by
  have hcin := cin.toNat_le
  have hcarry : (addBytes a b cin).carry = decide (255 < a.toNat + b.toNat + cin.toNat) := rfl
  rw [toNat_addBytes, hcarry]
  by_cases hover : 255 < a.toNat + b.toNat + cin.toNat
  · rw [decide_eq_true hover, Bool.toNat_true]
    omega
  · rw [decide_eq_false hover, Bool.toNat_false]
    omega

/-- The borrow counts the 256 that the minuend lacks (R142, R143). -/
theorem subBytes_exact (a b : Byte) (bin : Bool) :
    (subBytes a b bin).value.toNat + b.toNat + bin.toNat = (subBytes a b bin).carry.toNat * 256 + a.toNat := by
  have hbin := bin.toNat_le
  have hvalue := toNat_subBytes a b bin
  have hborrow : (subBytes a b bin).carry = decide (a.toNat < b.toNat + bin.toNat) := rfl
  rw [hborrow]
  by_cases hunder : a.toNat < b.toNat + bin.toNat
  · rw [decide_eq_true hunder, Bool.toNat_true]
    omega
  · rw [decide_eq_false hunder, Bool.toNat_false]
    omega

theorem value_addBytes_false (a b : Byte) : (addBytes a b false).value = a + b :=
  BitVec.eq_of_toNat_eq (toNat_addBytes a b false)

theorem value_subBytes_false (a b : Byte) : (subBytes a b false).value = a - b := by
  have hexact := subBytes_exact a b false
  rw [Bool.toNat_false] at hexact
  bv_omega

/-- INC carries exactly from 0xFF (R144). -/
theorem carry_addBytes_one (a : Byte) : (addBytes a 0x01#8 false).carry = (a == 0xFF#8) := by
  have hcarry : (addBytes a 0x01#8 false).carry = decide (255 < a.toNat + 1) := rfl
  rw [hcarry, Bool.eq_iff_iff, decide_eq_true_iff, beq_iff_eq]
  bv_omega

/-- INC's result is zero exactly when it wraps (R144). -/
theorem isZero_addBytes_one (a : Byte) : isZero (addBytes a 0x01#8 false).value = (a == 0xFF#8) := by
  rw [isZero, value_addBytes_false, Bool.eq_iff_iff, beq_iff_eq, beq_iff_eq]
  bv_omega

/-- DEC borrows exactly from 0 (R145). -/
theorem carry_subBytes_one (a : Byte) : (subBytes a 0x01#8 false).carry = (a == 0x00#8) := by
  have hborrow : (subBytes a 0x01#8 false).carry = decide (a.toNat < 1) := rfl
  rw [hborrow, Bool.eq_iff_iff, decide_eq_true_iff, beq_iff_eq]
  bv_omega

/-- A difference is zero exactly when its operands are equal (R146). -/
theorem isZero_subBytes_false (a b : Byte) : isZero (subBytes a b false).value = (a == b) := by
  rw [isZero, value_subBytes_false, Bool.eq_iff_iff, beq_iff_eq, beq_iff_eq]
  bv_omega

/-! ### Carry chains (R150) -/

/-- The carry of the low bytes into the high bytes makes a 16-bit sum with its carry. -/
theorem addBytes_chain (ah al bh bl : Byte) :
    (addBytes ah bh (addBytes al bl false).carry).carry.toNat * 65536 +
        (joinBytes (addBytes ah bh (addBytes al bl false).carry).value (addBytes al bl false).value).toNat =
      (joinBytes ah al).toNat + (joinBytes bh bl).toNat := by
  have hlo := addBytes_exact al bl false
  have hhi := addBytes_exact ah bh (addBytes al bl false).carry
  rw [Bool.toNat_false] at hlo
  simp only [toNat_joinBytes]
  linarith

/-- The borrow of the low bytes from the high bytes makes a 16-bit difference with its borrow. -/
theorem subBytes_chain (ah al bh bl : Byte) :
    (joinBytes (subBytes ah bh (subBytes al bl false).carry).value (subBytes al bl false).value).toNat +
        (joinBytes bh bl).toNat =
      (subBytes ah bh (subBytes al bl false).carry).carry.toNat * 65536 + (joinBytes ah al).toNat := by
  have hlo := subBytes_exact al bl false
  have hhi := subBytes_exact ah bh (subBytes al bl false).carry
  rw [Bool.toNat_false] at hlo
  simp only [toNat_joinBytes]
  linarith

/-- A word with its carry is known from the sum that they make. -/
theorem sum_and_carry_of_exact {w : Addr} {c : Bool} {n : Nat} (h : c.toNat * 65536 + w.toNat = n) :
    w.toNat = n % 65536 ∧ c = decide (n ≥ 65536) := by
  have hw := w.isLt
  cases c with
  | false =>
    rw [Bool.toNat_false] at h
    exact ⟨by omega, (decide_eq_false (by omega)).symm⟩
  | true =>
    rw [Bool.toNat_true] at h
    exact ⟨by omega, (decide_eq_true (by omega)).symm⟩

/-- A word with its borrow is known from the difference that they make. -/
theorem difference_and_borrow_of_exact {w a b : Addr} {c : Bool}
    (h : w.toNat + b.toNat = c.toNat * 65536 + a.toNat) : w = a - b ∧ c = decide (b.toNat > a.toNat) := by
  cases c with
  | false =>
    rw [Bool.toNat_false] at h
    exact ⟨by bv_omega, (decide_eq_false (by omega)).symm⟩
  | true =>
    rw [Bool.toNat_true] at h
    exact ⟨by bv_omega, (decide_eq_true (by omega)).symm⟩

theorem State.finishAlu_reg_self (s : State) (rd : RegIdx) (r : AluResult) : (s.finishAlu rd r).reg rd = r.value := by
  rw [State.finishAlu_reg, if_pos rfl]

theorem State.finishAlu_reg_of_ne (s : State) {rd q : RegIdx} (h : q ≠ rd) (r : AluResult) :
    (s.finishAlu rd r).reg q = s.reg q := by
  rw [State.finishAlu_reg, if_neg h]

/-- Two results stored in a row, low byte first, are the pair of their registers. -/
theorem State.regsTarget_finishAlu_finishAlu (s : State) {hi lo : RegIdx} (h : lo ≠ hi) (rlo rhi : AluResult) :
    ((s.finishAlu lo rlo).finishAlu hi rhi).regsTarget hi lo = joinBytes rhi.value rlo.value := by
  rw [State.regsTarget, State.finishAlu_reg_self, State.finishAlu_reg_of_ne _ h, State.finishAlu_reg_self]

/-- ADC after a result in another register reads its operands as they were, and the carry of that result. -/
theorem exec_adc_finishAlu (s : State) {lo hi ry : RegIdx} (hhi : hi ≠ lo) (hry : ry ≠ lo) (r : AluResult) :
    exec (.adc hi ry) (s.finishAlu lo r) =
      .next ((s.finishAlu lo r).finishAlu hi (addBytes (s.reg hi) (s.reg ry) r.carry)) := by
  rw [← s.finishAlu_reg_of_ne hhi r, ← s.finishAlu_reg_of_ne hry r]
  rfl

/-- SBC after a result in another register reads its operands as they were, and the borrow of that result. -/
theorem exec_sbc_finishAlu (s : State) {lo hi ry : RegIdx} (hhi : hi ≠ lo) (hry : ry ≠ lo) (r : AluResult) :
    exec (.sbc hi ry) (s.finishAlu lo r) =
      .next ((s.finishAlu lo r).finishAlu hi (subBytes (s.reg hi) (s.reg ry) r.carry)) := by
  rw [← s.finishAlu_reg_of_ne hhi r, ← s.finishAlu_reg_of_ne hry r]
  rfl

/-! ### A register pair written (R147, R148) -/

theorem nx_ne (r : RegIdx) : nx r ≠ r := by
  rw [nx]
  bv_omega

theorem State.reg_setReg_nx (s : State) (r : RegIdx) (v w : Byte) :
    ((s.setReg r v).setReg (nx r) w).reg r = v ∧ ((s.setReg r v).setReg (nx r) w).reg (nx r) = w := by
  constructor
  · rw [State.reg_setReg, if_neg (nx_ne r).symm, State.reg_setReg, if_pos rfl]
  · rw [State.reg_setReg, if_pos rfl]

/-- The state after MUL with a product (tied to it by `exec_mul`). -/
def State.storeProduct (s : State) (rx : RegIdx) (p : Addr) : State :=
  (((s.setReg rx (hiByte p)).setReg (nx rx) (loByte p)).setMulFlags p).advance

theorem exec_mul (rx ry : RegIdx) (s : State) :
    exec (.mul rx ry) s = .next (s.storeProduct rx (product (s.reg rx) (s.reg ry))) := rfl

theorem State.pair_storeProduct (s : State) (rx : RegIdx) (p : Addr) : (s.storeProduct rx p).pair rx = p := by
  obtain ⟨hhi, hlo⟩ := s.reg_setReg_nx rx (hiByte p) (loByte p)
  calc (s.storeProduct rx p).pair rx = ((s.setReg rx (hiByte p)).setReg (nx rx) (loByte p)).pair rx := rfl
    _ = joinBytes (hiByte p) (loByte p) := by rw [State.pair, hhi, hlo]
    _ = p := joinBytes_hiByte_loByte p

theorem State.storeProduct_z (s : State) (rx : RegIdx) (p : Addr) :
    (s.storeProduct rx p).z = decide (p.toNat = 0) := by
  have hz : (s.storeProduct rx p).z = (p == 0#16) := rfl
  rw [hz, Bool.eq_iff_iff, beq_iff_eq, decide_eq_true_iff]
  exact BitVec.toNat_inj.symm

theorem State.divide_reg_pair (s : State) (rx ry : RegIdx) :
    (s.divide rx ry).reg rx = quotient (s.reg rx) (s.reg ry) ∧
      (s.divide rx ry).reg (rx + 1#4) = remainder (s.reg rx) (s.reg ry) :=
  s.reg_setReg_nx rx (quotient (s.reg rx) (s.reg ry)) (remainder (s.reg rx) (s.reg ry))

theorem toNat_quotient (a b : Byte) : (quotient a b).toNat = a.toNat / b.toNat :=
  Nat.mod_eq_of_lt ((Nat.div_le_self a.toNat b.toNat).trans_lt a.isLt)

theorem toNat_remainder (a b : Byte) : (remainder a b).toNat = a.toNat % b.toNat :=
  Nat.mod_eq_of_lt ((Nat.mod_le a.toNat b.toNat).trans_lt a.isLt)

/-! ### Fault entry in the words of the statements (60_exceptions.md R226) -/

/-- Fault entry saves `pc` in two cells and reaches no other. -/
theorem MemKept.takeFault (s : State) (code : FaultCode) : MemKept [0x00FC#16, 0x00FD#16] s (s.takeFault code) := by
  intro a ha
  simp only [List.mem_cons, List.not_mem_nil, or_false, not_or] at ha
  obtain ⟨hhi, hlo⟩ := ha
  rw [State.takeFault_readMem, savedPcLoAddr, savedPcHiAddr, if_neg hlo, if_neg hhi]

theorem FaultTaken.takeFault (s : State) (code : FaultCode) :
    FaultTaken (faultByte code) s (s.takeFault code) := by
  have hreg : (s.takeFault code).reg 0#4 = faultByte code := by rw [State.takeFault_reg, if_pos rfl]
  have heffect : Effect s .zcn [0#4] s.faultEvents (s.takeFault code) := .fault code
  exact ⟨hreg, State.takeFault_savedPc s code, State.takeFault_pc s code, .takeFault s code,
    heffect.frame (.takeFault s code) rfl, rfl, rfl⟩

end Sys2Proof.Machine

namespace Sys2Proof.Claims

open Sys2Proof Sys2Proof.Machine

/-! ### A result stored with its flags (10_state.md R30) -/

theorem ResultStored.finishAlu (s : State) (rd : RegIdx) (r : AluResult) :
    ResultStored rd r.value r.carry s (s.finishAlu rd r) := by
  have heffect : Effect s .zcn [rd] [] (s.finishAlu rd r) := .alu rd r
  exact ⟨s.finishAlu_reg_self rd r, ⟨rfl, rfl, rfl⟩, rfl, heffect.frame heffect.memKept rfl, heffect.portsKept⟩

/-- The value named is the register's own. -/
theorem ResultStored.self {rd : RegIdx} {v : Byte} {carry : Bool} {s t : State} (h : ResultStored rd v carry s t) :
    ResultStored rd (t.reg rd) carry s t := by
  obtain ⟨rfl, hflags, hpc, hframe, hports⟩ := h
  exact ⟨rfl, hflags, hpc, hframe, hports⟩

/-- ADD, ADC and INC (R140, R141, R144). -/
theorem SumStored.finishAlu (s : State) (rd : RegIdx) (a b : Byte) (cin : Bool) :
    SumStored rd (a.toNat + b.toNat + cin.toNat) s (s.finishAlu rd (addBytes a b cin)) := by
  have hstored := ResultStored.finishAlu s rd (addBytes a b cin)
  refine ⟨?_, hstored.self⟩
  rw [State.finishAlu_reg_self, toNat_addBytes]

/-- SUB, SBC and DEC (R142, R143, R145). -/
theorem DifferenceStored.finishAlu (s : State) (rd : RegIdx) (a b : Byte) (bin : Bool) :
    DifferenceStored rd a (b.toNat + bin.toNat) s (s.finishAlu rd (subBytes a b bin)) := by
  have hstored := ResultStored.finishAlu s rd (subBytes a b bin)
  refine ⟨?_, hstored.self⟩
  rw [State.finishAlu_reg_self, toNat_subBytes, Nat.cast_add, sub_sub]

/-! ### The statements -/

/-- Settles O33: both store a sum, by `SumStored.finishAlu` at their carry in. -/
theorem addAndAdcSumBytes : Obligations.AddAndAdcSumBytes :=
  ⟨fun rx ry => ⟨decode_opcodeOf_operandOf (.add rx ry),
      fun s => ⟨_, rfl, .finishAlu s rx (s.reg rx) (s.reg ry) false⟩⟩,
    fun rx ry => ⟨decode_opcodeOf_operandOf (.adc rx ry),
      fun s => ⟨_, rfl, .finishAlu s rx (s.reg rx) (s.reg ry) s.c⟩⟩⟩

/-- Settles O34: both store a difference, by `DifferenceStored.finishAlu` at their borrow in. -/
theorem subAndSbcSubtractBytes : Obligations.SubAndSbcSubtractBytes :=
  ⟨fun rx ry => ⟨decode_opcodeOf_operandOf (.sub rx ry),
      fun s => ⟨_, rfl, .finishAlu s rx (s.reg rx) (s.reg ry) false⟩⟩,
    fun rx ry => ⟨decode_opcodeOf_operandOf (.sbc rx ry),
      fun s => ⟨_, rfl, .finishAlu s rx (s.reg rx) (s.reg ry) s.c⟩⟩⟩

/-- Settles O35: INC is a sum and DEC a difference with one; the low nibble is no field of theirs. -/
theorem incAndDecStepARegister : Obligations.IncAndDecStepARegister := by
  refine ⟨fun rx u => ⟨?_, fun s => ⟨_, rfl, .finishAlu s rx (s.reg rx) 0x01#8 false, ?_, ?_⟩⟩,
    fun rx u => ⟨?_, fun s => ⟨_, rfl, .finishAlu s rx (s.reg rx) 0x01#8 false, ?_⟩⟩⟩
  · rw [decode, hiNibble_joinNibbles]
  · exact carry_addBytes_one (s.reg rx)
  · exact (carry_addBytes_one (s.reg rx)).trans (isZero_addBytes_one (s.reg rx)).symm
  · rw [decode, hiNibble_joinNibbles]
  · exact carry_subBytes_one (s.reg rx)

/-- Settles O36: the flags are those of SUB's difference, and the effect writes no register. -/
theorem cmpOnlySetsFlags : Obligations.CmpOnlySetsFlags := by
  intro rx ry
  refine ⟨decode_opcodeOf_operandOf (.cmp rx ry), fun s => ?_⟩
  have heffect : Effect s .zcn [] [] (s.finishCompare (subBytes (s.reg rx) (s.reg ry) false)) := .compare _
  refine ⟨_, rfl, isZero_subBytes_false _ _, rfl, ?_, rfl, heffect.frame heffect.memKept rfl, heffect.portsKept⟩
  rw [State.finishCompare_n, isNegative, value_subBytes_false]

/-- Settles O37: the pair holds the product's two bytes, and the product is exact (`toNat_product`). -/
theorem mulWritesTheProductPair : Obligations.MulWritesTheProductPair := by
  intro rx ry
  refine ⟨decode_opcodeOf_operandOf (.mul rx ry), fun s => ?_⟩
  have heffect : Effect s .zcn [rx, nx rx] [] (s.storeProduct rx (product (s.reg rx) (s.reg ry))) := .mul rx _
  rw [← toNat_product (s.reg rx) (s.reg ry)]
  exact ⟨_, exec_mul rx ry s, congrArg BitVec.toNat (s.pair_storeProduct rx _), s.storeProduct_z rx _, rfl, rfl, rfl,
    heffect.frame heffect.memKept rfl, heffect.portsKept⟩

/-- Settles O38: the pair holds quotient and remainder, which divide exactly (R151). -/
theorem divWritesQuotientAndRemainder : Obligations.DivWritesQuotientAndRemainder := by
  intro rx ry
  refine ⟨decode_opcodeOf_operandOf (.div rx ry), fun s hdivisor => ⟨_, exec_div_of_ne_zero hdivisor rx, ?_⟩⟩
  have heffect : Effect s .zcn [rx, nx rx] [] (s.divide rx ry) := .divide rx ry
  have hpos : 0 < (s.reg ry).toNat := Nat.pos_of_ne_zero fun h => hdivisor (BitVec.eq_of_toNat_eq h)
  obtain ⟨hquotient, hremainder⟩ := s.divide_reg_pair rx ry
  rw [hquotient, hremainder, toNat_quotient, toNat_remainder]
  exact ⟨rfl, rfl, Nat.div_add_mod' _ _, Nat.mod_lt _ hpos, ⟨rfl, rfl, rfl⟩, rfl,
    heffect.frame heffect.memKept rfl, heffect.portsKept⟩

/-- Settles O39: DIV by zero is fault entry with its code. -/
theorem divByZeroTakesDivZero : Obligations.DivByZeroTakesDivZero :=
  fun rx _ s hzero => ⟨_, exec_div_of_zero hzero rx, .takeFault s .divZero⟩

/-- Settles O40: the low result leaves the high operands, so the two results are those of `addBytes_chain` and
`subBytes_chain`. -/
theorem carryChainsAreSixteenBitArithmetic : Obligations.CarryChainsAreSixteenBitArithmetic := by
  intro hiA loA hiB loB s hdistinct
  simp only [List.nodup_cons, List.mem_cons, List.not_mem_nil, or_false, not_or] at hdistinct
  obtain ⟨⟨hhiA, -, -⟩, ⟨hhiB, -⟩, -⟩ := hdistinct
  refine ⟨⟨_, _, rfl, exec_adc_finishAlu s hhiA (Ne.symm hhiB) _, ?_⟩,
    ⟨_, _, rfl, exec_sbc_finishAlu s hhiA (Ne.symm hhiB) _, ?_⟩⟩
  · rw [State.regsTarget_finishAlu_finishAlu s (Ne.symm hhiA)]
    exact sum_and_carry_of_exact (addBytes_chain (s.reg hiA) (s.reg loA) (s.reg hiB) (s.reg loB))
  · rw [State.regsTarget_finishAlu_finishAlu s (Ne.symm hhiA)]
    exact difference_and_borrow_of_exact (subBytes_chain (s.reg hiA) (s.reg loA) (s.reg hiB) (s.reg loB))

end Sys2Proof.Claims
end

section
/-! SUPPORT. The logic, shift and test instructions (42_logic_shift.md): a shift is a rotation of nine bits, so two of
them in a row undo each other in one register and are a 16-bit shift in two; the statements of that file. -/

namespace Sys2Proof.Machine

/-! ### Shifts as nine-bit rotations (R164, R165) -/

/-- SHL's result has its carry as bit 8; the operand has the old carry below its bit 0. -/
theorem shiftLeft_exact (a : Byte) (cin : Bool) :
    256 * (shiftLeft a cin).carry.toNat + (shiftLeft a cin).value.toNat = 2 * a.toNat + cin.toNat := by
  have ha := a.isLt
  have hcin := cin.toNat_le
  have hcarry : (shiftLeft a cin).carry.toNat = a.toNat / 2 ^ 7 % 2 := Nat.toNat_testBit a.toNat 7
  have hvalue : (shiftLeft a cin).value.toNat = (a.toNat * 2 + cin.toNat) % 256 := rfl
  omega

/-- SHR's result has its carry below its bit 0; the operand has the old carry as bit 8. -/
theorem shiftRight_exact (a : Byte) (cin : Bool) :
    2 * (shiftRight a cin).value.toNat + (shiftRight a cin).carry.toNat = 256 * cin.toNat + a.toNat := by
  have ha := a.isLt
  have hcin := cin.toNat_le
  have hcarry : (shiftRight a cin).carry.toNat = a.toNat / 2 ^ 0 % 2 := Nat.toNat_testBit a.toNat 0
  have hvalue : (shiftRight a cin).value.toNat = (a.toNat / 2 + cin.toNat * 128) % 256 := rfl
  omega

/-- SHL moves every bit up by one, with the old carry at bit 0. -/
theorem getLsbD_shiftLeft (a : Byte) (cin : Bool) {k : Nat} (hk : k < 8) :
    (shiftLeft a cin).value.getLsbD k = if k = 0 then cin else a.getLsbD (k - 1) := by
  have hrotated : (shiftLeft a cin).value.getLsbD k = (Nat.bit cin a.toNat).testBit k := by
    rw [Nat.bit_val, ← shiftLeft_exact, Nat.testBit_two_pow_mul_add (i := 8) _ (BitVec.isLt _), if_pos hk,
      BitVec.testBit_toNat]
  rw [hrotated]
  cases k with
  | zero => exact Nat.testBit_bit_zero cin a.toNat
  | succ k => exact Nat.testBit_bit_succ k cin a.toNat

/-- SHR moves every bit down by one, with the old carry at bit 7. -/
theorem getLsbD_shiftRight (a : Byte) (cin : Bool) {k : Nat} (hk : k < 8) :
    (shiftRight a cin).value.getLsbD k = if k = 7 then cin else a.getLsbD (k + 1) := by
  have hrotated : (shiftRight a cin).value.getLsbD k =
      if k + 1 < 8 then a.getLsbD (k + 1) else cin.toNat.testBit (k + 1 - 8) := by
    rw [← BitVec.testBit_toNat a, ← Nat.testBit_two_pow_mul_add (i := 8) _ a.isLt, ← shiftRight_exact, ← Nat.bit_val,
      Nat.testBit_bit_succ, BitVec.testBit_toNat]
  rw [hrotated]
  by_cases htop : k = 7
  · subst htop
    cases cin <;> rfl
  · rw [if_neg htop, if_pos (by omega)]

/-- SHR's `N` is the old `C`, which enters at bit 7 (R165). -/
theorem isNegative_shiftRight (a : Byte) (cin : Bool) : isNegative (shiftRight a cin).value = cin :=
  getLsbD_shiftRight a cin (by decide)

/-! ### Round trips (R168) -/

/-- A half with its remainder is known from the number that they make. -/
theorem half_and_remainder_of_exact {w n : Nat} {c : Bool} (h : 2 * w + c.toNat = n) :
    w = n / 2 ∧ c = decide (n % 2 = 1) := by
  subst h
  rw [← Nat.bit_val, Nat.bit_div_two, Nat.bit_mod_two]
  exact ⟨rfl, by cases c <;> rfl⟩

/-- A result is known from the nine bits that it makes with its carry below bit 0. -/
theorem AluResult.eq_of_carry_below {q r : AluResult}
    (h : 2 * q.value.toNat + q.carry.toNat = 2 * r.value.toNat + r.carry.toNat) : q = r := by
  obtain ⟨hq, hqcarry⟩ := half_and_remainder_of_exact h
  obtain ⟨hr, hrcarry⟩ := half_and_remainder_of_exact (w := r.value.toNat) (c := r.carry) rfl
  have hvalue : q.value = r.value := BitVec.eq_of_toNat_eq (hq.trans hr.symm)
  have hcarry : q.carry = r.carry := hqcarry.trans hrcarry.symm
  calc q = ⟨q.value, q.carry⟩ := rfl
    _ = r := by rw [hvalue, hcarry]

/-- A result is known from the nine bits that it makes with its carry above bit 7. -/
theorem AluResult.eq_of_carry_above {q r : AluResult}
    (h : 256 * q.carry.toNat + q.value.toNat = 256 * r.carry.toNat + r.value.toNat) : q = r := by
  have hq := q.value.isLt
  have hr := r.value.isLt
  exact eq_of_carry_below (by omega)

theorem shiftRight_shiftLeft (a : Byte) (cin : Bool) :
    shiftRight (shiftLeft a cin).value (shiftLeft a cin).carry = ⟨a, cin⟩ :=
  AluResult.eq_of_carry_below ((shiftRight_exact _ _).trans (shiftLeft_exact a cin))

theorem shiftLeft_shiftRight (a : Byte) (cin : Bool) :
    shiftLeft (shiftRight a cin).value (shiftRight a cin).carry = ⟨a, cin⟩ :=
  AluResult.eq_of_carry_above ((shiftLeft_exact _ _).trans (shiftRight_exact a cin))

/-! ### Shift chains (R169) -/

/-- The carry of the low byte into the high byte makes a 16-bit rotation left. -/
theorem shiftLeft_chain (ah al : Byte) (cin : Bool) :
    (shiftLeft ah (shiftLeft al cin).carry).carry.toNat * 65536 +
        (joinBytes (shiftLeft ah (shiftLeft al cin).carry).value (shiftLeft al cin).value).toNat =
      2 * (joinBytes ah al).toNat + cin.toNat := by
  have hlo := shiftLeft_exact al cin
  have hhi := shiftLeft_exact ah (shiftLeft al cin).carry
  simp only [toNat_joinBytes]
  linarith

/-- The carry of the high byte into the low byte makes a 16-bit rotation right. -/
theorem shiftRight_chain (ah al : Byte) (cin : Bool) :
    2 * (joinBytes (shiftRight ah cin).value (shiftRight al (shiftRight ah cin).carry).value).toNat +
        (shiftRight al (shiftRight ah cin).carry).carry.toNat =
      65536 * cin.toNat + (joinBytes ah al).toNat := by
  have hhi := shiftRight_exact ah cin
  have hlo := shiftRight_exact al (shiftRight ah cin).carry
  simp only [toNat_joinBytes]
  linarith

/-- A word with its carry is known from the double that they make. -/
theorem double_and_carry_of_exact {w : Addr} {c : Bool} {n : Nat} (h : c.toNat * 65536 + w.toNat = 2 * n) :
    w.toNat = 2 * n % 65536 ∧ c = decide (32768 ≤ n) := by
  obtain ⟨hvalue, hcarry⟩ := sum_and_carry_of_exact h
  exact ⟨hvalue, hcarry.trans (decide_eq_decide.mpr (by omega))⟩

/-! ### A shift after a shift -/

theorem exec_shl_finishAlu (s : State) (rd rx : RegIdx) (r : AluResult) :
    exec (.shl rx) (s.finishAlu rd r) =
      .next ((s.finishAlu rd r).finishAlu rx (shiftLeft ((s.finishAlu rd r).reg rx) r.carry)) := rfl

theorem exec_shr_finishAlu (s : State) (rd rx : RegIdx) (r : AluResult) :
    exec (.shr rx) (s.finishAlu rd r) =
      .next ((s.finishAlu rd r).finishAlu rx (shiftRight ((s.finishAlu rd r).reg rx) r.carry)) := rfl

/-- A second result equal to the old register and carry undoes the first. -/
theorem State.finishAlu_finishAlu_restores (s : State) (rx : RegIdx) (r : AluResult) :
    RegsKept [] s ((s.finishAlu rx r).finishAlu rx ⟨s.reg rx, s.c⟩) ∧
      ((s.finishAlu rx r).finishAlu rx ⟨s.reg rx, s.c⟩).c = s.c := by
  refine ⟨fun q _ => ?_, rfl⟩
  by_cases hq : q = rx
  · rw [hq, State.finishAlu_reg_self]
  · rw [State.finishAlu_reg_of_ne _ hq, State.finishAlu_reg_of_ne _ hq]

/-- Two results stored in a row, high byte first, are the pair of their registers. -/
theorem State.regsTarget_finishAlu_high_low (s : State) {hi lo : RegIdx} (h : hi ≠ lo) (rhi rlo : AluResult) :
    ((s.finishAlu hi rhi).finishAlu lo rlo).regsTarget hi lo = joinBytes rhi.value rlo.value := by
  rw [State.regsTarget, State.finishAlu_reg_self, State.finishAlu_reg_of_ne _ h, State.finishAlu_reg_self]

end Sys2Proof.Machine

namespace Sys2Proof.Claims

open Sys2Proof Sys2Proof.Machine

/-! ### The statements -/

/-- Settles O44: the second shift computes the old register and the old carry (`shiftRight_shiftLeft`,
`shiftLeft_shiftRight`). -/
theorem shiftPairsRestoreRegisterAndCarry : Obligations.ShiftPairsRestoreRegisterAndCarry := by
  refine fun rx s => ⟨⟨_, _, rfl, exec_shr_finishAlu s rx rx (shiftLeft (s.reg rx) s.c), ?_⟩,
    ⟨_, _, rfl, exec_shl_finishAlu s rx rx (shiftRight (s.reg rx) s.c), ?_⟩⟩
  · rw [State.finishAlu_reg_self, shiftRight_shiftLeft]
    exact s.finishAlu_finishAlu_restores rx _
  · rw [State.finishAlu_reg_self, shiftLeft_shiftRight]
    exact s.finishAlu_finishAlu_restores rx _

/-- Settles O45: the first result leaves the other register, so the two results are those of `shiftLeft_chain` and
`shiftRight_chain` from a clear carry. -/
theorem shiftChainsAreSixteenBitShifts : Obligations.ShiftChainsAreSixteenBitShifts := by
  intro hi lo s hdistinct hclear
  refine ⟨⟨_, _, rfl, exec_shl_finishAlu s lo hi (shiftLeft (s.reg lo) s.c), ?_⟩,
    ⟨_, _, rfl, exec_shr_finishAlu s hi lo (shiftRight (s.reg hi) s.c), ?_⟩⟩
  · have hchain := shiftLeft_chain (s.reg hi) (s.reg lo) s.c
    rw [hclear, Bool.toNat_false, Nat.add_zero] at hchain
    rw [State.regsTarget_finishAlu_finishAlu s hdistinct.symm, State.finishAlu_reg_of_ne s hdistinct, hclear]
    exact double_and_carry_of_exact hchain
  · have hchain := shiftRight_chain (s.reg hi) (s.reg lo) s.c
    rw [hclear, Bool.toNat_false, Nat.mul_zero, Nat.zero_add] at hchain
    rw [State.regsTarget_finishAlu_high_low s hdistinct, State.finishAlu_reg_of_ne s hdistinct.symm, hclear]
    exact half_and_remainder_of_exact hchain

/-- Settles O41: each stores a logical result, whose carry is clear (R167). -/
theorem logicOperationsClearCarry : Obligations.LogicOperationsClearCarry :=
  ⟨fun rx ry => ⟨decode_opcodeOf_operandOf (.and rx ry),
      fun s => ⟨_, rfl, .finishAlu s rx (logicResult (s.reg rx &&& s.reg ry))⟩⟩,
    fun rx ry => ⟨decode_opcodeOf_operandOf (.or rx ry),
      fun s => ⟨_, rfl, .finishAlu s rx (logicResult (s.reg rx ||| s.reg ry))⟩⟩,
    fun rx ry => ⟨decode_opcodeOf_operandOf (.xor rx ry),
      fun s => ⟨_, rfl, .finishAlu s rx (logicResult (s.reg rx ^^^ s.reg ry))⟩⟩,
    fun rx u => ⟨by rw [decode, hiNibble_joinNibbles],
      fun s => ⟨_, rfl, .finishAlu s rx (logicResult (~~~ (s.reg rx)))⟩⟩⟩

/-- Settles O42: each stores a rotation of the register through the carry, bit by bit as `getLsbD_shiftLeft` and
`getLsbD_shiftRight` say. -/
theorem shiftsRotateThroughCarry : Obligations.ShiftsRotateThroughCarry := by
  refine ⟨fun rx u => ⟨by rw [decode, hiNibble_joinNibbles], fun s => ?_⟩,
    fun rx u => ⟨by rw [decode, hiNibble_joinNibbles], fun s => ?_⟩⟩
  · have hstored := ResultStored.finishAlu s rx (shiftLeft (s.reg rx) s.c)
    refine ⟨_, rfl, hstored.self, fun k hk => ?_⟩
    rw [State.finishAlu_reg_self, getLsbD_shiftLeft _ _ hk]
  · have hstored := ResultStored.finishAlu s rx (shiftRight (s.reg rx) s.c)
    refine ⟨_, rfl, hstored.self, isNegative_shiftRight (s.reg rx) s.c, fun k hk => ?_⟩
    rw [State.finishAlu_reg_self, getLsbD_shiftRight _ _ hk]

/-- Settles O43: the flags are those of the and, and the effect writes neither a register nor `C`. -/
theorem testPreservesCarryAndRegisters : Obligations.TestPreservesCarryAndRegisters := by
  intro rx ry
  refine ⟨decode_opcodeOf_operandOf (.test rx ry), fun s => ?_⟩
  have heffect : Effect s .zn [] [] (s.setZN (s.reg rx &&& s.reg ry)).advance := .test _
  exact ⟨_, rfl, ⟨rfl, heffect.carryKept, rfl⟩, rfl, heffect.frame heffect.memKept rfl, heffect.portsKept⟩

end Sys2Proof.Claims
end

section
/-! SUPPORT. Jumps, branches, calls and return (43_control.md): a relative target over the integers; a return undoes the
push of a call, since the stack pointer that is back determines registers 14 and 15; the statements of that file. -/

namespace Sys2Proof.Machine

/-! ### Targets (R180, R183 to R187) -/

theorem State.relTarget_eq_ofInt (s : State) (imm : Byte) :
    s.relTarget imm = BitVec.ofInt 16 ((s.pc.toNat : Int) + 2 + imm.toInt) := by
  rw [BitVec.ofInt_add, BitVec.ofInt_add, BitVec.ofInt_natCast, BitVec.ofNat_toNat, BitVec.setWidth_eq]
  rfl

/-- A relative target is computed modulo 65,536 with the operand byte as a two's-complement number (R180). -/
theorem State.toNat_relTarget (s : State) (imm : Byte) :
    ((s.relTarget imm).toNat : Int) = ((s.pc.toNat : Int) + 2 + imm.toInt) % 65536 := by
  rw [State.relTarget_eq_ofInt, BitVec.toNat_ofInt, Int.toNat_of_nonneg (Int.emod_nonneg _ (by decide))]
  rfl

theorem OnlyPc.branchIf (s : State) (imm : Byte) {cond : Bool} {p : Prop} [Decidable p] (h : cond = true ↔ p) :
    OnlyPc (if p then s.relTarget imm else s.pc + 2#16) s (s.branchIf cond imm) := by
  rw [← if_congr h rfl rfl]
  exact .setPc s _

/-! ### The push of a return address and its pop (R188, R190) -/

/-- Memory after the push; the low byte is the later write. -/
theorem State.pushReturn_readMem (s : State) (a : Addr) :
    s.pushReturn.readMem a =
      if a = s.sp - 1#16 then loByte (s.pc + 2#16)
      else if a = s.sp - 2#16 then hiByte (s.pc + 2#16) else s.readMem a := by
  rw [State.pushReturn_eq, State.setSp_readMem, State.readMem_writeMem, State.readMem_writeMem]
  rfl

theorem MemKept.pushReturn (s : State) : MemKept [s.sp - 2#16, s.sp - 1#16] s s.pushReturn := by
  intro a ha
  simp only [List.mem_cons, List.not_mem_nil, or_false, not_or] at ha
  obtain ⟨hhi, hlo⟩ := ha
  rw [State.pushReturn_readMem, if_neg hlo, if_neg hhi]

@[simp] theorem State.popReturn_pc (s : State) :
    s.popReturn.pc = joinBytes (s.readMem s.sp) (s.readMem (s.sp + 1#16)) := rfl

theorem exec_ret (s : State) : exec .ret s = .next s.popReturn := rfl

theorem FlagsKept.popReturn (s : State) : FlagsKept s s.popReturn := ⟨rfl, rfl, rfl⟩

theorem Frame.popReturn (s : State) : Frame [14#4, 15#4] [] s s.popReturn :=
  have heffect : Effect s .none [14#4, 15#4] s.popReturnEvents s.popReturn := .ret
  heffect.frame (fun _ _ => rfl) rfl

/-! ### One state kept through another -/

theorem FlagsKept.trans {s t u : State} (h : FlagsKept s t) (h' : FlagsKept t u) : FlagsKept s u := by
  obtain ⟨hz, hc, hn⟩ := h
  obtain ⟨hz', hc', hn'⟩ := h'
  exact ⟨hz'.trans hz, hc'.trans hc, hn'.trans hn⟩

theorem PortsKept.trans {s t u : State} (h : PortsKept s t) (h' : PortsKept t u) : PortsKept s u := by
  obtain ⟨hcharOut, hcharIn⟩ := h
  obtain ⟨hcharOut', hcharIn'⟩ := h'
  exact ⟨hcharOut'.trans hcharOut, hcharIn'.trans hcharIn⟩

theorem SetupKept.trans {s t u : State} (h : SetupKept s t) (h' : SetupKept t u) : SetupKept s u := by
  obtain ⟨hout, hin, hhook, horder⟩ := h
  obtain ⟨hout', hin', hhook', horder'⟩ := h'
  exact ⟨hout'.trans hout, hin'.trans hin, hhook'.trans hhook, horder'.trans horder⟩

/-- What two changes in a row may reach is what either may reach. -/
theorem Frame.trans {rs rs' : List RegIdx} {cells cells' : List Addr} {s t u : State} (h : Frame rs cells s t)
    (h' : Frame rs' cells' t u) : Frame (rs ++ rs') (cells ++ cells') s u := by
  obtain ⟨hregs, hmem, hhalted, hsetup⟩ := h
  obtain ⟨hregs', hmem', hhalted', hsetup'⟩ := h'
  refine ⟨fun r hr => ?_, fun a ha => ?_, hhalted'.trans hhalted, hsetup.trans hsetup'⟩
  · rw [List.mem_append, not_or] at hr
    exact (hregs' r hr.2).trans (hregs r hr.1)
  · rw [List.mem_append, not_or] at ha
    exact (hmem' a ha.2).trans (hmem a ha.1)

/-- The stack pointer determines registers 14 and 15 (10_state.md R22). -/
theorem RegsKept.of_sp_eq {s t : State} (h : RegsKept [14#4, 15#4] s t) (hsp : t.sp = s.sp) : RegsKept [] s t := by
  have hhi : t.reg 14#4 = s.reg 14#4 := by simpa only [State.sp, hiByte_joinBytes] using congrArg hiByte hsp
  have hlo : t.reg 15#4 = s.reg 15#4 := by simpa only [State.sp, loByte_joinBytes] using congrArg loByte hsp
  intro r _
  by_cases hr : r ∈ [14#4, 15#4]
  · simp only [List.mem_cons, List.not_mem_nil, or_false] at hr
    obtain rfl | rfl := hr
    · exact hhi
    · exact hlo
  · exact h r hr

end Sys2Proof.Machine

namespace Sys2Proof.Claims

open Sys2Proof Sys2Proof.Machine

/-! ### Call and return -/

/-- CALL and CALLL push, wherever they jump to (R188, R189). -/
theorem ReturnPushed.pushReturn_setPc (s : State) (v : Addr) : ReturnPushed s (s.pushReturn.setPc v) := by
  have heffect : Effect s .none [14#4, 15#4] s.pushReturnEvents (s.pushReturn.setPc v) := .call v
  have hcells : s.sp - 2#16 ≠ s.sp - 1#16 := by bv_omega
  have hhi : s.pushReturn.readMem (s.sp - 2#16) = hiByte (s.pc + 2#16) := by
    rw [State.pushReturn_readMem, if_neg hcells, if_pos rfl]
  have hlo : s.pushReturn.readMem (s.sp - 1#16) = loByte (s.pc + 2#16) := by
    rw [State.pushReturn_readMem, if_pos rfl]
  exact ⟨hhi, hlo, s.sp_pushReturn, heffect.flagsKept, heffect.frame (.pushReturn s) rfl, rfl, rfl⟩

/-- A return from any state that a push alone led to (R193). -/
theorem ReturnPushed.popReturn {s t : State} (h : ReturnPushed s t) :
    t.popReturn.pc = s.pc + 2#16 ∧ FlagsKept s t.popReturn ∧
      Frame [] [s.sp - 2#16, s.sp - 1#16] s t.popReturn ∧ PortsKept s t.popReturn := by
  obtain ⟨hhi, hlo, hsp, hflags, hframe, hports⟩ := h
  replace hsp : t.sp = s.sp - 2#16 := hsp
  have hpc : t.popReturn.pc = s.pc + 2#16 := by
    have habove : s.sp - 2#16 + 1#16 = s.sp - 1#16 := by bv_omega
    rw [State.popReturn_pc, hsp, habove, hhi, hlo, joinBytes_hiByte_loByte]
  have hback : t.popReturn.sp = s.sp := by rw [State.sp_popReturn, hsp, BitVec.sub_add_cancel]
  obtain ⟨hregs, hmem, hhalted, hsetup⟩ := hframe.trans (.popReturn t)
  replace hregs : RegsKept [14#4, 15#4] s t.popReturn := fun r hr =>
    hregs r fun htwice => hr (by simpa only [List.mem_append, or_self] using htwice)
  exact ⟨hpc, hflags.trans (.popReturn t), ⟨hregs.of_sp_eq hback, hmem, hhalted, hsetup⟩, hports.trans ⟨rfl, rfl⟩⟩

/-! ### The statements -/

/-- Settles O52: both calls push a return address and jump; `ReturnPushed.popReturn` for the RET. -/
theorem callThenRetReturns : Obligations.CallThenRetReturns := by
  rintro i s (⟨imm, rfl⟩ | ⟨rx, ry, rfl⟩)
  · exact ⟨_, _, rfl, exec_ret _, (ReturnPushed.pushReturn_setPc s (s.relTarget imm)).popReturn⟩
  · exact ⟨_, _, rfl, exec_ret _, (ReturnPushed.pushReturn_setPc s (s.pushReturn.regsTarget rx ry)).popReturn⟩

/-- Settles O46: JMP writes `pc` alone, with the target of `State.toNat_relTarget`. -/
theorem jmpGoesToItsRelativeTarget : Obligations.JmpGoesToItsRelativeTarget := fun imm =>
  ⟨rfl, fun s => ⟨s.toNat_relTarget imm, _, rfl, .setPc s (s.relTarget imm)⟩⟩

/-- Settles O47: JMPL writes `pc` alone. -/
theorem jmplGoesToTheAddressInTwoRegisters : Obligations.JmplGoesToTheAddressInTwoRegisters := fun rx ry =>
  ⟨decode_opcodeOf_operandOf (.jmpl rx ry), fun s => ⟨_, rfl, .setPc s (s.regsTarget rx ry)⟩⟩

/-- Settles O48: each is `branchIf` on its condition; JNZ and JNC negate their flag. -/
theorem branchesFollowTheirFlag : Obligations.BranchesFollowTheirFlag := fun imm =>
  ⟨rfl, rfl, rfl, rfl, rfl, fun s =>
    ⟨⟨_, rfl, .branchIf s imm Iff.rfl⟩,
      ⟨_, rfl, .branchIf s imm (Bool.not_eq_true' s.z).to_iff⟩,
      ⟨_, rfl, .branchIf s imm Iff.rfl⟩,
      ⟨_, rfl, .branchIf s imm (Bool.not_eq_true' s.c).to_iff⟩,
      ⟨_, rfl, .branchIf s imm Iff.rfl⟩⟩⟩

/-- Settles O49: CALL is the push of `ReturnPushed.pushReturn_setPc` with a relative target. -/
theorem callPushesTheReturnAddressAndJumps : Obligations.CallPushesTheReturnAddressAndJumps := fun imm =>
  ⟨rfl, fun s => ⟨_, rfl, .pushReturn_setPc s (s.relTarget imm), rfl⟩⟩

/-- Settles O50: the jump after the push writes no register, so the registers after CALLL are those its target was read
from (log 15). -/
theorem calllReadsItsTargetAfterThePush : Obligations.CalllReadsItsTargetAfterThePush := fun rx ry =>
  ⟨decode_opcodeOf_operandOf (.calll rx ry),
    fun s => ⟨_, rfl, .pushReturn_setPc s (s.pushReturn.regsTarget rx ry), rfl⟩⟩

/-- Settles O51: RET has no field, and its pop is `State.popReturn`. -/
theorem retPopsTheReturnAddress : Obligations.RetPopsTheReturnAddress :=
  ⟨fun _ => rfl, fun s =>
    ⟨_, exec_ret s, s.popReturn_pc, s.sp_popReturn, .popReturn s, .popReturn s, rfl, rfl⟩⟩

end Sys2Proof.Claims
end

section
/-! SUPPORT. PUSH and POP of a register range (44_stack.md): the range by position and the register that each popped byte
fills; what the push leaves below the old stack pointer, read upwards by the pop; the statements of that file. -/

namespace Sys2Proof.Machine

/-! ### The range by position (R202) -/

theorem length_regRange_le (rx ry : RegIdx) : (regRange rx ry).length ≤ 16 := by
  rw [length_regRange]
  exact (ry - rx).isLt

theorem nodup_regRange (rx ry : RegIdx) : (regRange rx ry).Nodup := by
  refine List.pairwise_iff_getElem.mpr fun i j hi hj hij => ?_
  have hlen := length_regRange_le rx ry
  rw [getElem_regRange, getElem_regRange, ne_eq, BitVec.add_right_inj, ← BitVec.toNat_inj, BitVec.toNat_ofNat,
    BitVec.toNat_ofNat]
  omega

theorem getLast?_regRange (rx ry : RegIdx) : (regRange rx ry).getLast? = some ry := by
  have hlast := regRange_from_end rx ry 0 (Nat.zero_le _)
  rw [Nat.sub_zero, show ry - BitVec.ofNat 4 0 = ry from BitVec.sub_zero ry] at hlast
  rw [List.getLast?_eq_getElem?, length_regRange, Nat.add_sub_cancel,
    List.getElem?_eq_getElem (by rw [length_regRange]; exact Nat.lt_succ_self _), getElem_regRange, hlast]

/-- Each register of a range but the first follows the one before it. -/
theorem tail_regRange (rx ry : RegIdx) : (regRange rx ry).tail = (regRange rx ry).dropLast.map (· + 1#4) := by
  apply List.ext_getElem
  · simp
  · intro k _ _
    rw [List.getElem_tail, List.getElem_map, List.getElem_dropLast, getElem_regRange, getElem_regRange,
      BitVec.ofNat_add, BitVec.add_assoc]

/-- A register of a range is its last register minus some position from the end. -/
theorem exists_of_mem_regRange {rx ry r : RegIdx} (h : r ∈ regRange rx ry) :
    ∃ k, k ≤ (ry - rx).toNat ∧ r = ry - BitVec.ofNat 4 k := by
  obtain ⟨i, hi, rfl⟩ := List.mem_iff_getElem.mp h
  rw [length_regRange] at hi
  refine ⟨(ry - rx).toNat - i, Nat.sub_le _ _, ?_⟩
  rw [getElem_regRange, ← regRange_from_end rx ry _ (Nat.sub_le _ _), Nat.sub_sub_self (Nat.le_of_lt_succ hi)]

/-! ### The register that each popped byte fills (R201) -/

/-- The register that POP fills with the byte `k` above the stack pointer (tied to the model by `getElem_popRange`). -/
def popTarget (order : PopOrder) (rx ry : RegIdx) (k : Nat) : RegIdx :=
  match order with
  | .ascending => rx + BitVec.ofNat 4 k
  | .descending => ry - BitVec.ofNat 4 k

theorem getElem_popRange (order : PopOrder) (rx ry : RegIdx) (k : Nat) (h : k < (popRange order rx ry).length) :
    (popRange order rx ry)[k] = popTarget order rx ry k := by
  cases order with
  | ascending => exact getElem_regRange rx ry k h
  | descending =>
    rw [Claims.length_popRange] at h
    simp only [popRange, popTarget, List.getElem_reverse, getElem_regRange, length_regRange, Nat.add_sub_cancel]
    exact regRange_from_end rx ry k (Nat.le_of_lt_succ h)

theorem nodup_popRange (order : PopOrder) (rx ry : RegIdx) : (popRange order rx ry).Nodup := by
  cases order with
  | ascending => exact nodup_regRange rx ry
  | descending => exact List.nodup_reverse.mpr (nodup_regRange rx ry)

/-- A range of one register is filled alike in either order. -/
theorem popTarget_self (order : PopOrder) (r : RegIdx) : popTarget order r r 0 = r := by
  cases order with
  | ascending => exact BitVec.add_zero r
  | descending => exact BitVec.sub_zero r

/-! ### The state after PUSH and after POP (R200, R201) -/

/-- The state after PUSH (tied to it by `exec_push`). -/
def State.afterPush (s : State) (rx ry : RegIdx) : State := (s.pushRegs (regRange rx ry)).advance

/-- The state after POP (tied to it by `exec_pop`). -/
def State.afterPop (s : State) (rx ry : RegIdx) : State := (s.popRegs (popRange s.popOrder rx ry)).advance

theorem exec_push (rx ry : RegIdx) (s : State) : exec (.push rx ry) s = .next (s.afterPush rx ry) := rfl

theorem exec_pop (rx ry : RegIdx) (s : State) : exec (.pop rx ry) s = .next (s.afterPop rx ry) := rfl

theorem State.afterPush_pc (s : State) (rx ry : RegIdx) : (s.afterPush rx ry).pc = s.pc + 2#16 := by
  simp [State.afterPush, State.pushRegs_eq, State.nextPc]

theorem State.afterPop_pc (s : State) (rx ry : RegIdx) : (s.afterPop rx ry).pc = s.pc + 2#16 := by
  simp [State.afterPop, State.popRegs_eq, State.nextPc]

theorem State.sp_afterPush (s : State) (rx ry : RegIdx) :
    (s.afterPush rx ry).sp = s.sp - BitVec.ofNat 16 ((ry - rx).toNat + 1) := by
  rw [← length_regRange rx ry]
  exact s.sp_pushRegs (regRange rx ry)

theorem State.sp_afterPop (s : State) (rx ry : RegIdx) :
    (s.afterPop rx ry).sp = s.sp + BitVec.ofNat 16 ((ry - rx).toNat + 1) := by
  rw [← Claims.length_popRange s.popOrder rx ry]
  exact s.sp_popRegs (popRange s.popOrder rx ry)

theorem FlagsKept.afterPush (s : State) (rx ry : RegIdx) : FlagsKept s (s.afterPush rx ry) :=
  (Effect.push (s := s) (regRange rx ry)).flagsKept

theorem FlagsKept.afterPop (s : State) (rx ry : RegIdx) : FlagsKept s (s.afterPop rx ry) :=
  (Effect.pop (s := s) rx ry).flagsKept

theorem PortsKept.afterPush (s : State) (rx ry : RegIdx) : PortsKept s (s.afterPush rx ry) := by
  simp [PortsKept, State.afterPush, State.pushRegs_eq]

theorem PortsKept.afterPop (s : State) (rx ry : RegIdx) : PortsKept s (s.afterPop rx ry) := by
  simp [PortsKept, State.afterPop, State.popRegs_eq]

theorem MemKept.afterPush (s : State) (rx ry : RegIdx) :
    MemKept (Claims.belowSp s ((ry - rx).toNat + 1)) s (s.afterPush rx ry) := by
  intro a ha
  rw [State.afterPush, State.advance_readMem, State.pushRegs_eq, State.setSp_readMem]
  refine pushLoop_readMem_other (regRange rx ry) s.sp s a fun k hk hcell => ha ?_
  rw [length_regRange] at hk
  exact List.mem_map.mpr ⟨k, List.mem_range.mpr hk, hcell.symm⟩

theorem MemKept.afterPop (s : State) (rx ry : RegIdx) : MemKept [] s (s.afterPop rx ry) := by
  intro a _
  rw [State.afterPop, State.advance_readMem, State.popRegs_eq, State.setSp_readMem]
  rfl

theorem Frame.afterPush (s : State) (rx ry : RegIdx) :
    Frame [14#4, 15#4] (Claims.belowSp s ((ry - rx).toNat + 1)) s (s.afterPush rx ry) :=
  (Effect.push (s := s) (regRange rx ry)).frame (.afterPush s rx ry) (by simp [State.pushRegs_eq])

theorem Frame.afterPop (s : State) (rx ry : RegIdx) :
    Frame (regRange rx ry ++ [14#4, 15#4]) [] s (s.afterPop rx ry) :=
  (Effect.pop (s := s) rx ry).frame (.afterPop s rx ry) (by simp [State.popRegs_eq])

/-- PUSH stores the `k`-th register of its range, as it was, `k + 1` bytes below the old stack pointer. -/
theorem State.afterPush_readMem (s : State) (rx ry : RegIdx) {k : Nat} (hk : k ≤ (ry - rx).toNat) :
    (s.afterPush rx ry).readMem (s.sp - BitVec.ofNat 16 (k + 1)) = s.reg (rx + BitVec.ofNat 4 k) := by
  have hlen : (regRange rx ry).length ≤ 65536 := (length_regRange_le rx ry).trans (by decide)
  have hpos : k < (regRange rx ry).length := by rw [length_regRange]; exact Nat.lt_succ_of_le hk
  rw [State.afterPush, State.advance_readMem, State.pushRegs_eq, State.setSp_readMem,
    ← getElem_regRange rx ry k hpos]
  exact pushLoop_readMem _ s.sp s hlen k hpos

/-- POP fills its registers from the old stack pointer up, but for registers 14 and 15, which the write-back takes. -/
theorem State.afterPop_reg (s : State) (rx ry : RegIdx) {k : Nat} (hk : k ≤ (ry - rx).toNat)
    (hr : popTarget s.popOrder rx ry k ∉ [14#4, 15#4]) :
    (s.afterPop rx ry).reg (popTarget s.popOrder rx ry k) = s.readMem (s.sp + BitVec.ofNat 16 k) := by
  have hpos : k < (popRange s.popOrder rx ry).length := by
    rw [Claims.length_popRange]
    exact Nat.lt_succ_of_le hk
  simp only [List.mem_cons, List.not_mem_nil, or_false, not_or] at hr
  obtain ⟨h14, h15⟩ := hr
  rw [State.afterPop, State.advance_reg, State.popRegs_eq, State.reg_setSp, if_neg h15, if_neg h14,
    ← getElem_popRange s.popOrder rx ry k hpos]
  exact popLoop_reg _ s.sp s (nodup_popRange s.popOrder rx ry) k hpos

/-! ### A stack pointer that is back -/

/-- The stack pointer determines registers 14 and 15 (10_state.md R22). -/
theorem reg_of_sp_eq {s t : State} {r : RegIdx} (hsp : t.sp = s.sp) (hr : r ∈ [14#4, 15#4]) : t.reg r = s.reg r := by
  simp only [List.mem_cons, List.not_mem_nil, or_false] at hr
  obtain rfl | rfl := hr
  · simpa only [State.sp, hiByte_joinBytes] using congrArg hiByte hsp
  · simpa only [State.sp, loByte_joinBytes] using congrArg loByte hsp

/-! ### POP after PUSH of the same range (R203) -/

theorem State.sp_afterPush_afterPop (s : State) (rx ry : RegIdx) :
    ((s.afterPush rx ry).afterPop rx ry).sp = s.sp := by
  rw [State.sp_afterPop, State.sp_afterPush, BitVec.sub_add_cancel]

/-- After PUSH the byte `k` above the stack pointer is that of the register `k` before the end of the range. -/
theorem State.afterPush_readMem_above_sp (s : State) (rx ry : RegIdx) {k : Nat} (hk : k ≤ (ry - rx).toNat) :
    (s.afterPush rx ry).readMem ((s.afterPush rx ry).sp + BitVec.ofNat 16 k) = s.reg (ry - BitVec.ofNat 4 k) := by
  have hcell : (s.afterPush rx ry).sp + BitVec.ofNat 16 k =
      s.sp - BitVec.ofNat 16 ((ry - rx).toNat - k + 1) := by
    have hsplit : (ry - rx).toNat + 1 = (ry - rx).toNat - k + 1 + k := by omega
    rw [State.sp_afterPush, hsplit, BitVec.ofNat_add (_ + 1)]
    bv_omega
  rw [hcell, State.afterPush_readMem s rx ry (Nat.sub_le _ _), regRange_from_end rx ry k hk]

/-- POP after PUSH fills its registers with the old values of the range, last register first. -/
theorem State.afterPush_afterPop_reg (s : State) (rx ry : RegIdx) {k : Nat} (hk : k ≤ (ry - rx).toNat)
    (hr : popTarget s.popOrder rx ry k ∉ [14#4, 15#4]) :
    ((s.afterPush rx ry).afterPop rx ry).reg (popTarget s.popOrder rx ry k) = s.reg (ry - BitVec.ofNat 4 k) := by
  obtain ⟨-, -, -, -, -, -, horder⟩ := Frame.afterPush s rx ry
  rw [← horder] at hr ⊢
  rw [State.afterPop_reg _ rx ry hk hr, State.afterPush_readMem_above_sp s rx ry hk]

/-- Registers 14 and 15 are out of the frame, since the stack pointer that is back determines them (10_state.md R22). -/
theorem Frame.afterPush_afterPop (s : State) (rx ry : RegIdx) :
    Frame (regRange rx ry) (Claims.belowSp s ((ry - rx).toNat + 1)) s ((s.afterPush rx ry).afterPop rx ry) := by
  obtain ⟨hregs, hmem, hhalted, hsetup⟩ := (Frame.afterPush s rx ry).trans (.afterPop _ rx ry)
  rw [List.append_nil] at hmem
  refine ⟨fun r hr => ?_, hmem, hhalted, hsetup⟩
  by_cases hsp : r ∈ [14#4, 15#4]
  · exact reg_of_sp_eq (s.sp_afterPush_afterPop rx ry) hsp
  · refine hregs r ?_
    simp only [List.mem_append, not_or]
    exact ⟨hsp, hr, hsp⟩

/-- Where POP fills its range from the last register down, as PUSH left it, every register is restored. -/
theorem RegsKept.afterPush_afterPop (s : State) (rx ry : RegIdx)
    (htarget : ∀ k, k ≤ (ry - rx).toNat → popTarget s.popOrder rx ry k = ry - BitVec.ofNat 4 k) :
    RegsKept [] s ((s.afterPush rx ry).afterPop rx ry) := by
  refine RegsKept.of_sp_eq (fun r hr => ?_) (s.sp_afterPush_afterPop rx ry)
  by_cases hmem : r ∈ regRange rx ry
  · obtain ⟨k, hk, rfl⟩ := exists_of_mem_regRange hmem
    rw [← htarget k hk] at hr
    have hreg := s.afterPush_afterPop_reg rx ry hk hr
    rwa [htarget k hk] at hreg
  · obtain ⟨hregs, -⟩ := Frame.afterPush_afterPop s rx ry
    exact hregs r hmem

end Sys2Proof.Machine

namespace Sys2Proof.Claims

open Sys2Proof Sys2Proof.Machine

/-! ### The statements -/

/-- Settles O56: the popped bytes are the range from its last register (`State.afterPush_afterPop_reg`), which the
descending order and the range of one register put back (`RegsKept.afterPush_afterPop`). -/
theorem pushThenPopObeysTheStackLaws : Obligations.PushThenPopObeysTheStackLaws := by
  refine fun rx ry s => ⟨_, _, exec_push rx ry s, exec_pop rx ry _, s.sp_afterPush_afterPop rx ry,
    (FlagsKept.afterPush s rx ry).trans (.afterPop _ rx ry), (PortsKept.afterPush s rx ry).trans (.afterPop _ rx ry),
    .afterPush_afterPop s rx ry, fun horder k hk hr => ?_, fun horder => .afterPush_afterPop s rx ry fun k _ => ?_,
    fun hone => ?_⟩
  · have hreg := s.afterPush_afterPop_reg rx ry hk
    rw [horder] at hreg
    exact hreg hr
  · rw [horder, popTarget]
  · subst hone
    refine .afterPush_afterPop s rx rx fun k hk => ?_
    obtain rfl : k = 0 := by simpa using hk
    rw [popTarget_self, BitVec.sub_zero]

/-- Settles O54: what the cells hold is `State.afterPush_readMem`, what else changes the effect of PUSH. -/
theorem pushStoresTheRangeDownwards : Obligations.PushStoresTheRangeDownwards := fun rx ry =>
  ⟨decode_opcodeOf_operandOf (.push rx ry), fun s =>
    ⟨_, exec_push rx ry s, fun _ hk => s.afterPush_readMem rx ry hk, s.sp_afterPush rx ry, s.afterPush_pc rx ry,
      .afterPush s rx ry, .afterPush s rx ry, .afterPush s rx ry⟩⟩

/-- Settles O55: what the registers hold is `State.afterPop_reg` in the order of the machine, what else changes the effect
of POP. -/
theorem popLoadsTheRangeUpwards : Obligations.PopLoadsTheRangeUpwards := by
  refine fun rx ry => ⟨decode_opcodeOf_operandOf (.pop rx ry), fun s =>
    ⟨_, exec_pop rx ry s, fun horder k hk => ?_, fun horder k hk => ?_, s.sp_afterPop rx ry, s.afterPop_pc rx ry,
      .afterPop s rx ry, .afterPop s rx ry, .afterPop s rx ry⟩⟩
  all_goals
    have hreg := s.afterPop_reg rx ry hk
    rw [horder] at hreg
    exact hreg

/-- Settles O53: by position, the `k`-th register of the range being `rx + k`. -/
theorem registerRangeWrapsFromFirstToLast : Obligations.RegisterRangeWrapsFromFirstToLast := by
  refine fun rx ry => ⟨length_regRange rx ry, ?_, length_regRange_le rx ry, rfl, getLast?_regRange rx ry,
    nodup_regRange rx ry, tail_regRange rx ry⟩
  rw [length_regRange]
  exact Nat.succ_pos _

end Sys2Proof.Claims
end

section
/-! SUPPORT. PRINT, INPUT, HLT and the invalid opcodes (45_io_halt_invalid.md): which instruction can halt the machine, and
which can see the pending input, each a case split over the instructions; the statements of that file. -/

namespace Sys2Proof.Machine

/-! ### Halting (R212; 10_state.md R32) -/

/-- Only HLT writes the halted indicator. -/
theorem exec_halted_of_ne_hlt {i : Instr} {s t : State} (hi : i ≠ .hlt) (h : exec i s = .next t) :
    t.halted = s.halted := by
  suffices hkept : ∃ u, exec i s = .next u ∧ u.halted = s.halted by
    obtain ⟨u, hu, hhalted⟩ := hkept
    cases hu.symm.trans h
    exact hhalted
  cases i with
  | hlt => exact absurd rfl hi
  | nop | jmp | jmpl | jz | jnz | jc | jnc | jn => exact ⟨_, rfl, rfl⟩
  | ldi0 | ldi1 | ldi2 | ldi3 | ldi4 | ldi5 | ldi6 | ldi7 | ldi8 | ldi9 | ldi10 | ldi11 | ldi12 | ldi13 | ldi14
  | ldi15 | mov | swap => exact ⟨_, rfl, rfl⟩
  | add | adc | sub | sbc | inc | dec | cmp | mul | and | or | xor | not | shl | shr | test => exact ⟨_, rfl, rfl⟩
  | call | calll | ret => exact ⟨_, rfl, rfl⟩
  | div rx ry =>
    by_cases hzero : s.reg ry = 0x00#8
    · exact ⟨_, exec_div_of_zero hzero rx, rfl⟩
    · exact ⟨_, exec_div_of_ne_zero hzero rx, rfl⟩
  | load | loadz => exact ⟨_, rfl, State.afterLoad_halted s _⟩
  | stor | storz => exact ⟨_, rfl, State.storeByte_halted s _ _⟩
  | push => exact ⟨_, rfl, by simp [State.pushRegs_eq]⟩
  | pop => exact ⟨_, rfl, by simp [State.popRegs_eq]⟩
  | print => exact ⟨_, rfl, State.putChar_halted s _⟩
  | input => exact ⟨_, rfl, State.takeChar_halted s⟩

/-- A halted machine stays as it is (60_exceptions.md R220, step 1). -/
theorem step_of_halted {s : State} (h : s.halted = true) : step s = .next s := if_pos h

theorem StepsTo_of_halted {s : State} (h : s.halted = true) (k : Nat) : StepsTo k s s := by
  induction k with
  | zero => rfl
  | succ k ih => exact ⟨s, step_of_halted h, ih⟩

/-! ### The state with another pending input (10_state.md R39) -/

/-- The state that differs in the pending input alone. -/
def State.withInput (s : State) (inputs : List Byte) : State := { s with charIn := inputs }

theorem State.putChar_withInput (s : State) (inputs : List Byte) (v : Byte) :
    (s.withInput inputs).putChar v = (s.putChar v).withInput inputs := by
  rw [State.putChar_eq, State.putChar_eq]
  rfl

/-- A store may output, but never asks for input. -/
theorem State.storeByte_withInput (s : State) (inputs : List Byte) (a : Addr) (v : Byte) :
    (s.withInput inputs).storeByte a v = (s.storeByte a v).withInput inputs := by
  rw [State.storeByte_eq, State.storeByte_eq]
  rfl

/-- With the hook off a load reads memory and leaves the state (20_memory.md R72). -/
theorem State.load_of_hook_off {s : State} (hhook : s.mmioHook = false) (a : Addr) :
    s.loadByte a = s.readMem a ∧ s.afterLoad a = s := by
  have hhooked : s.loadHooked a = false := by rw [State.loadHooked, hhook, Bool.and_false]
  rw [State.loadByte, State.afterLoad, hhooked]
  exact ⟨rfl, rfl⟩

theorem pushLoop_withInput (rs : List RegIdx) (sp : Addr) (s : State) (inputs : List Byte) :
    pushLoop rs sp (s.withInput inputs) = (pushLoop rs sp s).map id (·.withInput inputs) := by
  induction rs generalizing sp s with
  | nil => rfl
  | cons r rs ih => exact ih (sp - 1#16) (s.writeMem (sp - 1#16) (s.reg r))

theorem popLoop_withInput (rs : List RegIdx) (sp : Addr) (s : State) (inputs : List Byte) :
    popLoop rs sp (s.withInput inputs) = (popLoop rs sp s).map id (·.withInput inputs) := by
  induction rs generalizing sp s with
  | nil => rfl
  | cons r rs ih => exact ih (sp + 1#16) (s.setReg r (s.readMem sp))

theorem State.pushRegs_withInput (s : State) (inputs : List Byte) (rs : List RegIdx) :
    (s.withInput inputs).pushRegs rs = (s.pushRegs rs).withInput inputs :=
  congrArg (fun p : Addr × State => p.2.setSp p.1) (pushLoop_withInput rs s.sp s inputs)

theorem State.popRegs_withInput (s : State) (inputs : List Byte) (rs : List RegIdx) :
    (s.withInput inputs).popRegs rs = (s.popRegs rs).withInput inputs :=
  congrArg (fun p : Addr × State => p.2.setSp p.1) (popLoop_withInput rs s.sp s inputs)

/-- LOAD and LOADZ with the hook off, from their address. -/
theorem State.load_withInput {s : State} (hhook : s.mmioHook = false) (inputs : List Byte) (a : Addr) (rd : RegIdx) :
    (((s.withInput inputs).afterLoad a).setReg rd ((s.withInput inputs).loadByte a)).advance =
      ((s.afterLoad a).setReg rd (s.loadByte a)).advance.withInput inputs := by
  obtain ⟨hbyte, hafter⟩ := State.load_of_hook_off hhook a
  obtain ⟨hbyte', hafter'⟩ := State.load_of_hook_off (s := s.withInput inputs) hhook a
  rw [hbyte, hafter, hbyte', hafter']
  rfl

theorem next_advance_withInput {u t : State} {inputs : List Byte} (h : u = t.withInput inputs) :
    (.next u.advance : Result) = .next (t.advance.withInput inputs) := by
  rw [h]
  rfl

/-- With the hook off, only INPUT reads or writes the pending input (R211). -/
theorem exec_withInput {i : Instr} {s t : State} (hhook : s.mmioHook = false) (hi : ∀ rx, i ≠ .input rx)
    (h : exec i s = .next t) (inputs : List Byte) : exec i (s.withInput inputs) = .next (t.withInput inputs) := by
  suffices hsame : ∃ u, exec i s = .next u ∧ exec i (s.withInput inputs) = .next (u.withInput inputs) by
    obtain ⟨u, hu, hother⟩ := hsame
    cases hu.symm.trans h
    exact hother
  cases i with
  | input rx => exact absurd rfl (hi rx)
  | nop | jmp | jmpl | jz | jnz | jc | jnc | jn => exact ⟨_, rfl, rfl⟩
  | ldi0 | ldi1 | ldi2 | ldi3 | ldi4 | ldi5 | ldi6 | ldi7 | ldi8 | ldi9 | ldi10 | ldi11 | ldi12 | ldi13 | ldi14
  | ldi15 | mov | swap => exact ⟨_, rfl, rfl⟩
  | add | adc | sub | sbc | inc | dec | cmp | mul | and | or | xor | not | shl | shr | test => exact ⟨_, rfl, rfl⟩
  | call | calll | ret | hlt => exact ⟨_, rfl, rfl⟩
  | div rx ry =>
    by_cases hzero : s.reg ry = 0x00#8
    · exact ⟨_, exec_div_of_zero hzero rx, exec_div_of_zero (s := s.withInput inputs) hzero rx⟩
    · exact ⟨_, exec_div_of_ne_zero hzero rx, exec_div_of_ne_zero (s := s.withInput inputs) hzero rx⟩
  | load | loadz => exact ⟨_, rfl, congrArg Host.Outcome.next (State.load_withInput hhook inputs _ _)⟩
  | stor | storz => exact ⟨_, rfl, next_advance_withInput (s.storeByte_withInput inputs _ _)⟩
  | push => exact ⟨_, rfl, next_advance_withInput (s.pushRegs_withInput inputs _)⟩
  | pop => exact ⟨_, rfl, next_advance_withInput (s.popRegs_withInput inputs _)⟩
  | print => exact ⟨_, rfl, next_advance_withInput (s.putChar_withInput inputs _)⟩

/-! ### A byte taken into a register (R211) -/

/-- The state after INPUT (tied to it by `exec_input`). -/
def State.afterInput (s : State) (rd : RegIdx) : State :=
  ((s.takeChar.setReg rd s.charInByte).setZN s.charInByte).advance

theorem exec_input (rd : RegIdx) (s : State) : exec (.input rd) s = .next (s.afterInput rd) := rfl

theorem State.afterInput_charIn (s : State) (rd : RegIdx) : (s.afterInput rd).charIn = s.takeChar.charIn := rfl

theorem State.afterInput_reg_self (s : State) (rd : RegIdx) : (s.afterInput rd).reg rd = s.charInByte := by
  simp [State.afterInput]

theorem State.afterInput_pc (s : State) (rd : RegIdx) : (s.afterInput rd).pc = s.pc + 2#16 :=
  s.takeChar_nextPc

theorem FlagsOf.afterInput (s : State) (rd : RegIdx) : FlagsOf ((s.afterInput rd).reg rd) s.c (s.afterInput rd) := by
  rw [State.afterInput_reg_self]
  exact ⟨rfl, s.takeChar_c, rfl⟩

theorem Frame.afterInput (s : State) (rd : RegIdx) : Frame [rd] [] s (s.afterInput rd) :=
  have heffect : Effect s .zn [rd] s.charInEvents (s.afterInput rd) := .input rd
  heffect.frame (fun a _ => s.takeChar_readMem a) s.takeChar_halted

end Sys2Proof.Machine

namespace Sys2Proof.Claims

open Sys2Proof Sys2Proof.Machine

/-! ### The statements -/

/-- Settles O12: by what the step does (`step_cases`); among the instructions HLT alone writes the indicator. -/
theorem onlyHltHaltsAndNoStepResumes : Obligations.OnlyHltHaltsAndNoStepResumes := by
  refine ⟨fun s t hstep hrunning hhalted => ?_, fun s t hstep hhalted => ?_⟩
  · have hchanged : t.halted ≠ s.halted := by simp [hrunning, hhalted]
    obtain ⟨-, rfl⟩ | ⟨-, -, rfl⟩ | ⟨-, hpc, i, hdecode, hexec⟩ | ⟨-, -, op, -, rfl⟩ := step_cases hstep
    · exact absurd rfl hchanged
    · exact absurd rfl hchanged
    · obtain rfl : i = .hlt := by_contra fun hi => hchanged (exec_halted_of_ne_hlt hi hexec)
      obtain ⟨hop, -⟩ := opcode_of_decode hdecode
      exact ⟨hpc, hop⟩
    · exact absurd rfl hchanged
  · cases (step_of_halted hhalted).symm.trans hstep
    exact hhalted

/-- Settles O18: `exec_withInput`, instruction by instruction. -/
theorem onlyInputDependsOnTheEnvironment : Obligations.OnlyInputDependsOnTheEnvironment :=
  fun _ _ _ inputs hhook hi h => exec_withInput hhook hi h inputs

/-- Settles O57: PRINT's effect is that of `State.putChar`; the low nibble is no field of it. -/
theorem printOutputsARegister : Obligations.PrintOutputsARegister := by
  refine fun rx u => ⟨by rw [decode, hiNibble_joinNibbles], fun s => ?_⟩
  have heffect : Effect s .none [] (s.charOutEvents (s.reg rx)) (s.putChar (s.reg rx)).advance := .print _
  have hmem : MemKept [] s (s.putChar (s.reg rx)).advance := fun a _ => State.putChar_readMem s _ a
  have hpc : (s.putChar (s.reg rx)).advance.pc = s.pc + 2#16 := State.putChar_nextPc s _
  exact ⟨_, rfl, State.putChar_charOut s _, State.putChar_charIn s _, hpc, heffect.flagsKept,
    heffect.frame hmem (State.putChar_halted s _)⟩

/-- Settles O58: the register and the flags hold the byte that `CharIn()` answers, and the input left is what it leaves
(`State.charIn_of_detached`, `State.charIn_of_nil`, `State.charIn_of_cons`). -/
theorem inputTakesAByteWithoutWaiting : Obligations.InputTakesAByteWithoutWaiting := by
  refine fun rx u => ⟨by rw [decode, hiNibble_joinNibbles], fun s => ⟨_, exec_input rx s, ?_⟩⟩
  have hreg := s.afterInput_reg_self rx
  rw [State.afterInput_charIn]
  refine ⟨fun hport => ?_, fun hport hin => ?_, fun b rest hport hin => ?_, .afterInput s rx, s.takeChar_charOut,
    s.afterInput_pc rx, .afterInput s rx⟩
  · exact (State.charIn_of_detached hport).imp_left hreg.trans
  · exact (State.charIn_of_nil hport hin).imp_left hreg.trans
  · exact (State.charIn_of_cons hport hin).imp_left hreg.trans

/-- Settles O59: the effect of HLT is on `halted` alone, and a halted machine stays as it is. -/
theorem hltHaltsInPlace : Obligations.HltHaltsInPlace := by
  refine ⟨fun _ => rfl, fun s => ?_⟩
  have heffect : Effect s .none [] [] s.halt := .halt
  exact ⟨s.halt, rfl, rfl, rfl, heffect.flagsKept, heffect.regsKept, heffect.memKept, heffect.portsKept,
    heffect.setupKept, StepsTo_of_halted rfl⟩

/-- Settles O60: the step is fault entry with its code. -/
theorem invalidOpcodeStepTakesOnlyTheFault : Obligations.InvalidOpcodeStepTakesOnlyTheFault :=
  fun s ⟨hhalted, hpc, hinvalid⟩ =>
    ⟨_, step_of_invalidOpcode hhalted hpc hinvalid, .takeFault s .invalidOpcode⟩

end Sys2Proof.Claims
end

section
/-! SUPPORT. The step and the faults (60_exceptions.md): the step on an odd `pc` and on a fetched instruction, the cells that
fault entry leaves, and the default handler; the statements of that file. -/

namespace Sys2Proof.Machine

/-! ### The step, by what it meets (R220) -/

/-- An odd `pc` is met before any fetch (R220, step 2). -/
theorem step_of_odd_pc {s : State} (hhalted : s.halted = false) (hpc : s.pc.getLsbD 0 = true) :
    step s = .next (s.takeFault .misalignedPc) := by
  simp only [step, State.engineStep, hhalted, hpc, Bool.false_eq_true, if_false, if_true]

/-- Steps 3 to 5 of R220. -/
theorem step_of_aboutToRun {i : Instr} {s : State} (h : AboutToRun i s) : step s = exec i s := by
  obtain ⟨hhalted, hpc, hdecode⟩ := h
  simp only [step, State.engineStep, State.fetchAndExecute, hhalted, hpc, hdecode, Bool.false_eq_true, if_false]

theorem exec_goes_on (i : Instr) (s : State) : ∃ t, exec i s = .next t := by
  obtain ⟨t, hexec, -⟩ := exec_effect i s
  exact ⟨t, hexec⟩

/-- The branches of R220, each with its next state. -/
theorem step_goes_on (s : State) : ∃ t, step s = .next t := by
  cases hhalted : s.halted with
  | true => exact ⟨s, step_of_halted hhalted⟩
  | false =>
    cases hpc : s.pc.getLsbD 0 with
    | true => exact ⟨_, step_of_odd_pc hhalted hpc⟩
    | false =>
      cases hdecode : decode s.fetchOp s.fetchArg with
      | instr i =>
        rw [step_of_aboutToRun ⟨hhalted, hpc, hdecode⟩]
        exact exec_goes_on i s
      | invalidOpcode op =>
        obtain rfl := op_of_decode_invalidOpcode hdecode
        exact ⟨_, step_of_invalidOpcode hhalted hpc ((decode_eq_invalidOpcode_iff _ _).mp hdecode)⟩

theorem State.stepResult_of_halted {s : State} (h : s.halted = true) : s.stepResult = .didNotRun := if_pos h

theorem State.stepResult_of_not_halted {s : State} (h : s.halted = false) : s.stepResult = .ran := by
  rw [State.stepResult, h, if_neg Bool.false_ne_true]

/-! ### The fault vector and its default handler (R232 to R234) -/

/-- Fault entry reads the vector and does not write it: the saved `pc` lies in other cells. -/
@[simp] theorem State.takeFault_faultVector (s : State) (code : FaultCode) :
    (s.takeFault code).faultVector = s.faultVector := by
  have hhi : (s.takeFault code).readMem vectorHiAddr = s.readMem vectorHiAddr := MemKept.takeFault s code _ (by decide)
  have hlo : (s.takeFault code).readMem vectorLoAddr = s.readMem vectorLoAddr := MemKept.takeFault s code _ (by decide)
  rw [State.faultVector, hhi, hlo, State.faultVector]

theorem DefaultHandler.reset : DefaultHandler State.reset := ⟨rfl, rfl⟩

/-- Fault entry under the default handler leads to HLT, whatever byte follows it (R233). -/
theorem DefaultHandler.aboutToRun_hlt {s : State} (h : DefaultHandler s) (hhalted : s.halted = false)
    (code : FaultCode) : AboutToRun .hlt (s.takeFault code) := by
  obtain ⟨hvector, hcell⟩ := h
  have hpc : (s.takeFault code).pc = 0xFFFE#16 := (s.takeFault_pc code).trans hvector
  have hop : (s.takeFault code).fetchOp = 0xFF#8 := by
    rw [State.fetchOp, hpc, MemKept.takeFault s code _ (by decide), hcell]
  refine ⟨hhalted, by rw [hpc]; rfl, ?_⟩
  rw [hop]
  rfl

/-- Under the default handler a step that takes a fault is followed by one that halts, in the state of the fault entry. -/
theorem DefaultHandler.halts_in_two_steps {s : State} {code : FaultCode} (h : DefaultHandler s)
    (hhalted : s.halted = false) (hstep : step s = .next (s.takeFault code)) :
    ∃ t, StepsTo 2 s t ∧ Ended t ∧ t.pc = 0xFFFE#16 ∧ t.reg 0#4 = faultByte code ∧ t.savedPc = s.pc := by
  have hhalt : step (s.takeFault code) = .next (s.takeFault code).halt :=
    step_of_aboutToRun (h.aboutToRun_hlt hhalted code)
  obtain ⟨hreg, hsaved, hpc, -⟩ := FaultTaken.takeFault s code
  obtain ⟨hvector, -⟩ := h
  exact ⟨(s.takeFault code).halt, ⟨_, hstep, _, hhalt, rfl⟩, rfl, hpc.trans hvector, hreg, hsaved⟩

end Sys2Proof.Machine

namespace Sys2Proof.Claims

open Sys2Proof Sys2Proof.Machine

/-! ### The statements -/

/-- Settles O10, by induction on the number of steps: fault entry from a state with an odd vector is a state with an odd
`pc` and the same vector. -/
theorem oddVectorRepeatsForEver : Obligations.OddVectorRepeatsForEver := by
  intro s hhalted hpc hvector k
  induction k generalizing s with
  | zero =>
    obtain ⟨hreg, hsaved, hpc', -⟩ := FaultTaken.takeFault s .misalignedPc
    exact ⟨_, ⟨_, step_of_odd_pc hhalted hpc, rfl⟩, hreg, hpc', s.takeFault_faultVector _, hhalted, hsaved⟩
  | succ k ih =>
    have hpc' := s.takeFault_pc .misalignedPc
    have hvector' := s.takeFault_faultVector .misalignedPc
    obtain ⟨t, hrun, hreg, htpc, htvector, hthalted, hsaved⟩ :=
      ih (s.takeFault .misalignedPc) hhalted (by rw [hpc', hvector]) (by rw [hvector', hvector])
    rw [hpc', hvector', ite_self] at hsaved
    exact ⟨t, ⟨_, step_of_odd_pc hhalted hpc, hrun⟩, hreg, htpc.trans hvector', htvector.trans hvector', hthalted,
      hsaved.trans (if_neg k.succ_ne_zero).symm⟩

/-- Settles O11: each of the three steps takes a fault, and the default handler halts the machine on the next. -/
theorem unhandledFaultHaltsInTwoSteps : Obligations.UnhandledFaultHaltsInTwoSteps := by
  refine ⟨.reset, fun s hdefault hhalted hpc => ?_, fun s hdefault hinvalid => ?_, fun s rx ry hdefault hdiv hzero => ?_⟩
  · exact hdefault.halts_in_two_steps hhalted (step_of_odd_pc hhalted hpc)
  · obtain ⟨hhalted, hpc, hop⟩ := hinvalid
    exact hdefault.halts_in_two_steps hhalted (step_of_invalidOpcode hhalted hpc hop)
  · have hstep := (step_of_aboutToRun hdiv).trans (exec_div_of_zero hzero rx)
    obtain ⟨hhalted, -, -⟩ := hdiv
    exact hdefault.halts_in_two_steps hhalted hstep

/-- Settles O6: a fetch reads the bytes at `pc` and `pc + 1`. -/
theorem stepRunsTheDecodedInstruction : Obligations.StepRunsTheDecodedInstruction :=
  fun _ _ hhalted hpc hdecode =>
    ⟨step_of_aboutToRun ⟨hhalted, hpc, hdecode⟩, State.stepResult_of_not_halted hhalted⟩

/-- Settles O7: the three observations of a step, each by its test of `halted`. -/
theorem haltedMachineDoesNothing : Obligations.HaltedMachineDoesNothing :=
  ⟨fun _ h => ⟨step_of_halted h, State.stepEvents_of_halted h, State.stepResult_of_halted h⟩,
    fun _ h => State.stepResult_of_not_halted h⟩

/-- Settles O8: the step is fault entry with its code, and so are its events. -/
theorem oddPcTakesMisalignedPc : Obligations.OddPcTakesMisalignedPc := fun s hhalted hpc =>
  ⟨⟨_, step_of_odd_pc hhalted hpc, .takeFault s .misalignedPc⟩, State.stepEvents_of_odd_pc hhalted hpc⟩

/-- Settles O9: code by code, and the cells by what a read after fault entry returns. -/
theorem faultEntryRewritesFourItems : Obligations.FaultEntryRewritesFourItems := by
  refine fun code s => ⟨?_, State.takeFault_readMem s code _, State.takeFault_readMem s code _, State.takeFault_pc s code⟩
  cases code with
  | invalidOpcode | divZero | misalignedPc => exact .takeFault s _

/-- Settles O13: by the effect of the instruction, and the branches of the step. -/
theorem everyInstructionAndStepGoesOn : Obligations.EveryInstructionAndStepGoesOn := ⟨exec_goes_on, step_goes_on⟩

end Sys2Proof.Claims
end

section
/-! SUPPORT. Reset and the host's actions (70_reset_and_hazards.md): what reset leaves in a cell and the run of NOPs that
follows it, what a loaded image leaves in a cell, and the run loop by the branch it takes; the statements of that file. -/

namespace Sys2Proof.Machine

/-! ### What reset leaves (R250) -/

theorem resetByte_eq_zero {a : Nat} (h : a ∉ [0x00FE, 0x00FF, 0xFFFE, 0xFFFF]) : resetByte a = 0x00#8 := by
  simp only [List.mem_cons, List.not_mem_nil, or_false, not_or] at h
  obtain ⟨hvectorHi, hvectorLo, hbackstopHi, hbackstopLo⟩ := h
  rw [resetByte, if_neg hvectorHi, if_neg hvectorLo, if_neg hbackstopHi, if_neg hbackstopLo]

theorem State.reset_readMem (a : Addr) : State.reset.readMem a = resetByte a.toNat := rfl

theorem State.hostReset_readMem (s : State) (a : Addr) : s.hostReset.readMem a = resetByte a.toNat := rfl

theorem State.hostReset_reg (s : State) (r : RegIdx) : s.hostReset.reg r = 0x00#8 := Vector.getElem_replicate _

/-- The state at construction is one that a reset by the host gives. -/
theorem State.hostReset_reset : State.reset.hostReset = State.reset := rfl

/-! ### A run with nothing loaded (R253) -/

/-- Between the vector and the backstop reset leaves zeros, which are NOPs. -/
theorem reset_aboutToRun_nop {v : Addr} (heven : v.getLsbD 0 = false) (hlo : 0x0100 ≤ v.toNat)
    (hhi : v.toNat + 1 < 0xFFFE) : AboutToRun .nop (State.reset.setPc v) := by
  have hnext : (v + 1#16).toNat = v.toNat + 1 := BitVec.toNat_add_of_lt (by simp; omega)
  have hop : (State.reset.setPc v).fetchOp = 0x00#8 := by
    rw [State.fetchOp, State.setPc_readMem, State.setPc_pc, State.reset_readMem]
    exact resetByte_eq_zero (by simp; omega)
  have harg : (State.reset.setPc v).fetchArg = 0x00#8 := by
    rw [State.fetchArg, State.setPc_readMem, State.setPc_pc, State.reset_readMem, hnext]
    exact resetByte_eq_zero (by simp; omega)
  refine ⟨rfl, heven, ?_⟩
  rw [hop, harg]
  rfl

/-- The backstop is HLT. -/
theorem reset_aboutToRun_hlt : AboutToRun .hlt (State.reset.setPc 0xFFFE#16) := ⟨rfl, rfl, rfl⟩

/-- Where the `k`-th NOP after reset stands. -/
def nopAddr (k : Nat) : Addr := BitVec.ofNat 16 (0x0200 + 2 * k)

theorem toNat_nopAddr {k : Nat} (hk : k ≤ 32511) : (nopAddr k).toNat = 0x0200 + 2 * k := by
  rw [nopAddr, BitVec.toNat_ofNat]
  omega

theorem nopAddr_even (k : Nat) : (nopAddr k).getLsbD 0 = false := by
  rw [nopAddr, BitVec.getLsbD_ofNat, Nat.testBit_zero]
  simp

theorem nopAddr_succ (k : Nat) : nopAddr k + 2#16 = nopAddr (k + 1) := by
  rw [nopAddr, nopAddr, Nat.mul_add, ← Nat.add_assoc, BitVec.ofNat_add (_ + _)]

theorem step_reset_nopAddr {k : Nat} (hk : k < 32511) :
    step (State.reset.setPc (nopAddr k)) = .next (State.reset.setPc (nopAddr (k + 1))) := by
  have haddr := toNat_nopAddr hk.le
  rw [step_of_aboutToRun (reset_aboutToRun_nop (nopAddr_even k) (by omega) (by omega)), ← nopAddr_succ]
  rfl

theorem StepsTo_reset_nopAddr {k : Nat} (hk : k ≤ 32511) :
    StepsTo k State.reset (State.reset.setPc (nopAddr k)) := by
  induction k with
  | zero => rfl
  | succ k ih => exact StepsTo_add (ih (by omega)) ⟨_, step_reset_nopAddr hk, rfl⟩

/-! ### A loaded image (R257) -/

/-- Copying writes memory alone. -/
theorem State.copyBytes_eq (bytes : List Byte) (a : Addr) (s : State) :
    State.copyBytes bytes a s = { s with mem := (State.copyBytes bytes a s).mem } := by
  induction bytes generalizing a s with
  | nil => rfl
  | cons b bytes ih => exact ih (a + 1#16) (s.writeMem a b)

/-- A cell reads as the byte of the image that lies on it, and as before where none does. -/
theorem State.copyBytes_readMem (bytes : List Byte) (start : Nat) (s : State) (a : Addr)
    (hfits : start + bytes.length ≤ 65536) :
    (State.copyBytes bytes (BitVec.ofNat 16 start) s).readMem a =
      if a.toNat < start then s.readMem a else bytes[a.toNat - start]?.getD (s.readMem a) := by
  induction bytes generalizing start s with
  | nil => simp [State.copyBytes]
  | cons b bytes ih =>
    rw [List.length_cons] at hfits
    have hcell : a = BitVec.ofNat 16 start ↔ a.toNat = start := by
      rw [← BitVec.toNat_inj, BitVec.toNat_ofNat, Nat.mod_eq_of_lt (by omega)]
    simp only [State.copyBytes, ← BitVec.ofNat_add, ih (start + 1) _ (by omega), State.readMem_writeMem, hcell]
    obtain hbelow | hfirst | habove := Nat.lt_trichotomy a.toNat start
    · rw [if_pos (Nat.lt_succ_of_lt hbelow), if_pos hbelow, if_neg hbelow.ne]
    · simp [hfirst]
    · have hindex : a.toNat - start = a.toNat - (start + 1) + 1 := by omega
      rw [if_neg habove.ne', if_neg (by omega), if_neg (by omega), hindex, List.getElem?_cons_succ]

theorem State.copyBytes_readMem_inside {bytes : List Byte} {start : Nat} (s : State)
    (hfits : start + bytes.length ≤ 65536) {k : Nat} (hk : k < bytes.length) :
    (State.copyBytes bytes (BitVec.ofNat 16 start) s).readMem (BitVec.ofNat 16 (start + k)) = bytes[k] := by
  have haddr : (BitVec.ofNat 16 (start + k)).toNat = start + k := by
    rw [BitVec.toNat_ofNat, Nat.mod_eq_of_lt (by omega)]
  rw [State.copyBytes_readMem bytes start s _ hfits, haddr, if_neg (by omega), Nat.add_sub_cancel_left,
    List.getElem?_eq_getElem hk, Option.getD_some]

theorem State.copyBytes_readMem_outside {bytes : List Byte} {start : Nat} (s : State)
    (hfits : start + bytes.length ≤ 65536) {a : Addr} (ha : a.toNat < start ∨ start + bytes.length ≤ a.toNat) :
    (State.copyBytes bytes (BitVec.ofNat 16 start) s).readMem a = s.readMem a := by
  rw [State.copyBytes_readMem bytes start s a hfits]
  obtain hbelow | habove := ha
  · exact if_pos hbelow
  · rw [if_neg (by omega), List.getElem?_eq_none (by omega), Option.getD_none]

theorem State.loadProgram_of_fits {bytes : List Byte} {start : Nat} (s : State)
    (hfits : start + bytes.length ≤ 65536) :
    s.loadProgram bytes start = .next (State.copyBytes bytes (BitVec.ofNat 16 start) s) :=
  if_pos (decide_eq_true hfits)

theorem State.loadProgram_of_too_long {bytes : List Byte} {start : Nat} (s : State)
    (hlong : 65536 < start + bytes.length) : s.loadProgram bytes start = .refused .imageDoesNotFit :=
  if_neg (by simpa [imageFits] using hlong)

/-! ### The run loop (R259) -/

theorem State.hostRun_of_halted {s : State} (h : s.halted = true) (k : Nat) : s.hostRun k = .next (s, 0) := by
  cases k with
  | zero => rfl
  | succ k => exact if_pos h

theorem State.hostRun_succ {s u t : State} {k n : Nat} (hhalted : s.halted = false) (hstep : step s = .next u)
    (hrun : u.hostRun k = .next (t, n)) : s.hostRun (k + 1) = .next (t, n + 1) := by
  simp only [State.hostRun, hhalted, hstep, hrun, Bool.false_eq_true, if_false]

/-- A run of which no state before the `n`-th was halted, one step longer. -/
theorem not_halted_before_succ {s u : State} {n : Nat} (hhalted : s.halted = false) (hstep : step s = .next u)
    (h : ∀ m v, m < n → StepsTo m u v → v.halted = false) (m : Nat) (v : State) (hm : m < n + 1)
    (hrun : StepsTo m s v) : v.halted = false := by
  cases m with
  | zero => cases hrun; exact hhalted
  | succ m => exact h m v (Nat.lt_of_succ_lt_succ hm) ((StepsTo_succ hstep m v).mp hrun)

end Sys2Proof.Machine

namespace Sys2Proof.Claims

open Sys2Proof Sys2Proof.Machine

/-! ### The statements -/

/-- Settles O25: whether the image fits selects the branch; the cells are those of `State.copyBytes_readMem`. -/
theorem loadProgramCopiesTheImage : Obligations.LoadProgramCopiesTheImage :=
  ⟨fun s bytes _ hfits =>
    ⟨_, s.loadProgram_of_fits hfits, fun _ hk => s.copyBytes_readMem_inside hfits hk,
      fun _ ha => s.copyBytes_readMem_outside hfits ha, State.copyBytes_eq bytes _ s⟩,
    fun s _ _ hlong => s.loadProgram_of_too_long hlong⟩

/-- Settles O26, by induction on the budget: a halted machine stops the loop, any other takes a step and goes on. -/
theorem runCountsTheStepsThatRan : Obligations.RunCountsTheStepsThatRan := by
  intro k
  induction k with
  | zero => exact fun s => ⟨0, s, rfl, le_rfl, rfl, nofun, nofun⟩
  | succ k ih =>
    intro s
    cases hhalted : s.halted with
    | true =>
      exact ⟨0, s, State.hostRun_of_halted hhalted _, Nat.zero_le _, rfl, fun _ => hhalted, nofun⟩
    | false =>
      obtain ⟨u, hstep⟩ := step_goes_on s
      obtain ⟨n, t, hrun, hle, hsteps, hended, hbefore⟩ := ih u
      exact ⟨n + 1, t, State.hostRun_succ hhalted hstep hrun, Nat.succ_le_succ hle, ⟨u, hstep, hsteps⟩,
        fun h => hended (Nat.lt_of_succ_lt_succ h), not_halted_before_succ hhalted hstep hbefore⟩

/-- Settles O22: construction is a reset by the host as well, and a cell holds `resetByte` after it. -/
theorem resetGivesTheSpecValues : Obligations.ResetGivesTheSpecValues := by
  intro s t h
  obtain ⟨u, rfl⟩ : ∃ u : State, t = u.hostReset := by
    obtain rfl | rfl := h
    · exact ⟨State.reset, State.hostReset_reset.symm⟩
    · exact ⟨s, rfl⟩
  refine ⟨u.hostReset_reg, rfl, rfl, rfl, rfl, rfl, rfl, rfl, rfl, rfl, fun a ha => ?_⟩
  rw [State.hostReset_readMem]
  exact resetByte_eq_zero (by simpa [← BitVec.toNat_inj] using ha)

/-- Settles O23: a reset by the host copies each of these fields. -/
theorem resetLeavesTheEnvironment : Obligations.ResetLeavesTheEnvironment :=
  fun _ => ⟨⟨rfl, rfl⟩, rfl, rfl, rfl, rfl⟩

/-- Settles O24: the NOPs end at the backstop (`StepsTo_reset_nopAddr`), which takes one more step. -/
theorem emptyMachineRunsToTheBackstop : Obligations.EmptyMachineRunsToTheBackstop := by
  have hhalt : step (State.reset.setPc 0xFFFE#16) = .next (State.reset.setPc 0xFFFE#16).halt :=
    step_of_aboutToRun reset_aboutToRun_hlt
  have hlast : StepsTo 1 (State.reset.setPc 0xFFFE#16) (State.reset.setPc 0xFFFE#16).halt := ⟨_, hhalt, rfl⟩
  exact ⟨fun _ hk => StepsTo_reset_nopAddr hk, StepsTo_add (StepsTo_reset_nopAddr le_rfl) hlast⟩

end Sys2Proof.Claims
end

section
/-! SUPPORT. The encodings printed in the spec's examples (95_test_vectors.md Part B). -/

namespace Sys2Proof.Claims

open Sys2Proof Sys2Proof.Machine

/-- Settles O5: nine of the words are the encoder's own bytes, which `decode_opcodeOf_operandOf` reads back; NOP, PRINT
and HLT are printed with unused operand bits set, which the decoder ignores (30_encoding.md R98). -/
theorem specWordsDecode : Obligations.SpecWordsDecode := by
  have hnop : decode 0x00#8 0xFF#8 = .instr .nop := rfl
  have hprint : decode 0x70#8 0x3F#8 = .instr (.print 3#4) := rfl
  have hhlt : decode 0xFF#8 0xFF#8 = .instr .hlt := rfl
  exact ⟨hnop, decode_opcodeOf_operandOf (.ldi15 0xFF#8),
    decode_opcodeOf_operandOf (.load 4#4 15#4), decode_opcodeOf_operandOf (.storz 0xFA#8),
    decode_opcodeOf_operandOf (.add 1#4 3#4), decode_opcodeOf_operandOf (.div 5#4 7#4),
    decode_opcodeOf_operandOf (.shl 1#4), decode_opcodeOf_operandOf (.jnz 0x04#8),
    decode_opcodeOf_operandOf (.calll 14#4 15#4), decode_opcodeOf_operandOf (.push 14#4 1#4), hprint, hhlt⟩

end Sys2Proof.Claims
end
